-- ==== Sys2Proof/Config.lean ====
section
/-!
DEFINITION. What an implementation of PVD-CORE fixes: its two parameters `TS_WIDTH` and `MAX_BITS` (R5, R8), which
every definition that depends on them takes as an argument, the fixed bound of R9, and the free values, one
constant with no body for each value the spec leaves unspecified.
-/

namespace Sys2Proof.Config

/-- The parameters of a block. State holds those of the block it is a state of (log 1). -/
structure Params where
  /-- `TS_WIDTH` (R5): the width in bits of every timestamp and duration. Any width with room for the frame spans is
  legal (R257), which bounds a run's timestamps and not the number. -/
  tsWidth : Nat
  /-- `MAX_BITS` (R8): the most bits one BITS event carries in a direction. -/
  maxBits : Nat
deriving DecidableEq, Repr

/-- The defaults the spec gives (R5, R8). -/
def defaults : Params := { tsWidth := 64, maxBits := 16 }

/-- The largest legal `MAX_BITS` (R8). -/
abbrev maxMaxBits : Nat := 32

/-- The legal values of the parameters: `MAX_BITS` is 1 to 32 (R8). -/
def Params.legal (p : Params) : Bool := decide (1 ≤ p.maxBits) && decide (p.maxBits ≤ maxMaxBits)

/-- `n` is a value of a timestamp: below `2^TS_WIDTH` (R5). -/
def Params.isTs (p : Params) (n : Nat) : Bool := decide (n < 2 ^ p.tsWidth)

/-- `MAX_ANN` (R9): the most annotation records one input event produces. -/
abbrev maxAnn : Nat := 6

/-- FREE VALUE (R106, I-4): what `bit_width_ts` receives, as a number of `TS_WIDTH` bits, from a BITS event whose
`end_ts` is below its `start_ts`, for each draw (log 3). -/
opaque freeBitWidth : (draw : Nat) → Nat

/-- FREE VALUE (R181, I-5): the `start_ts`, as a number of `TS_WIDTH` bits, of the control record that begins at a
bit-cell, for each draw, where the span arithmetic has no exact result (log 4). -/
opaque freeSpanStart : (draw cell : Nat) → Nat

/-- FREE VALUE (R181, I-5): the `end_ts`, as a number of `TS_WIDTH` bits, of the control record that ends at a
bit-cell, for each draw, where the span arithmetic has no exact result (log 4). -/
opaque freeSpanEnd : (draw cell : Nat) → Nat

/-- FREE VALUE (R23, I-6): the content of `frame_start_ts`, as a number of `TS_WIDTH` bits, while
`frame_start_valid = 0`, for each draw (log 5). -/
opaque freeFrameStart : (draw : Nat) → Nat

end Sys2Proof.Config
end

