-- ==== Sys2Proof/Word.lean ====
section
/-!
DEFINITION. The word types of PVD-CORE. What has one width is a bit vector of that width. A timestamp or duration, of
`TS_WIDTH` bits (R5), a packed event record, of `evtBits` bits (R77), and a packed output record, of `annBits` bits
(R82), have the widths the parameters give them: each is a `Nat`, the unsigned number it stands for (R11). The block
has no bytes and no byte order (R55): bit `i` of a vector has weight `2^i`.
-/

namespace Sys2Proof

/-- An accumulator value: `ACC_WIDTH = 17` bits (R6, R21, R22). -/
abbrev Acc := BitVec 17

/-- The value the Frame Finalizer hands to a decoder, a control word among them: `RAW_WIDTH = 16` bits (R7,
R78). -/
abbrev Raw := BitVec 16

/-- The bits one direction carries in an event, `rx_vec` or `tx_vec` (R70), at the largest legal `MAX_BITS`, 32 (R8).
The bits at `MAX_BITS` and above are 0 in every well-formed instruction. -/
abbrev Vec := BitVec 32

/-- A length field, `rx_len` or `tx_len` (R70). -/
abbrev Len := BitVec 6

/-- The configuration input `RANGE_SEL[1:0]` (R30). -/
abbrev RangeSel := BitVec 2

end Sys2Proof
end

