-- ==== Sys2Proof/Syntax.lean ====
section
/-!
DEFINITION. The instructions of PVD-CORE: one constructor of `Instr` for each row of
spec/opcode_table.json, the seven header classes of format `EVT` (R71) and the ten register-address
classes of format `CTLW` (R80). Every bit of an encoding is held by an operand or fixed by the
constructor, the bits the block ignores among them.
-/

namespace Sys2Proof

/-- The fields of an input event record other than `hdr` (R70). A CS_CHANGE event carries them too and
ignores them (R130). -/
structure EvtBody where
  /-- `start_ts`: the event's start, of `TS_WIDTH` bits. -/
  startTs : Nat
  /-- `end_ts`: the event's end, of `TS_WIDTH` bits. -/
  endTs : Nat
  /-- `rx_len`: how many rx bits the event carries. -/
  rxLen : Len
  /-- `rx_vec`: the rx bits, bit `k` the element `s[k]` (R75). -/
  rxVec : Vec
  /-- `tx_len`: how many tx bits the event carries. -/
  txLen : Len
  /-- `tx_vec`: the tx bits, bit `k` the element `s[k]` (R75). -/
  txVec : Vec
deriving DecidableEq, Repr

/-- The four quadrant fields of a range-select control word (R79): `rng_0` is `raw[7:6]`, and `rng_3` is
`raw[1:0]`. -/
structure Quads where
  rng0 : BitVec 2
  rng1 : BitVec 2
  rng2 : BitVec 2
  rng3 : BitVec 2
deriving DecidableEq, Repr

/-- The rows of spec/opcode_table.json. -/
inductive Instr where
  /-- `BITS` (R100): `pad` is `hdr[3:1]`, ignored (R74). -/
  | bits (pad : BitVec 3) (ev : EvtBody)
  /-- `CS_RISE` (R132): `old_level = 0`, `new_level = 1`. -/
  | csRise (ev : EvtBody)
  /-- `CS_FALL` (R133): `old_level = 1`, `new_level = 0`. -/
  | csFall (ev : EvtBody)
  /-- `CS_STAY_LOW` (R134): both levels 0. -/
  | csStayLow (ev : EvtBody)
  /-- `CS_STAY_HIGH` (R135): both levels 1. -/
  | csStayHigh (ev : EvtBody)
  /-- `CS_FIRST` (R136): `old_level = null`; `newLevel` is `hdr[3]`. -/
  | csFirst (newLevel : Bool) (ev : EvtBody)
  /-- `CS_RSVD` (R73): the reserved `cs_old = 11`; `newLevel` is `hdr[3]`. -/
  | csRsvd (newLevel : Bool) (ev : EvtBody)
  /-- `CTL_NONE_0_1` (R193): register address 0 or 1, its low bit `reg`. -/
  | ctlNone01 (pad15 : Bool) (reg : BitVec 1) (pad8 : Bool) (payload : BitVec 8)
  /-- `CTL_NONE_2` (R193): register address 2. -/
  | ctlNone2 (pad15 pad8 : Bool) (payload : BitVec 8)
  /-- `CTL_CHSEL` (R184): register address 3, channel select. -/
  | ctlChsel (pad15 pad8 : Bool) (chb cha : BitVec 4)
  /-- `CTL_RANGE_A_LO` (R188): register address 4. -/
  | ctlRangeALo (pad15 pad8 : Bool) (q : Quads)
  /-- `CTL_RANGE_A_HI` (R189): register address 5. -/
  | ctlRangeAHi (pad15 pad8 : Bool) (q : Quads)
  /-- `CTL_RANGE_B_LO` (R190): register address 6. -/
  | ctlRangeBLo (pad15 pad8 : Bool) (q : Quads)
  /-- `CTL_RANGE_B_HI` (R191): register address 7. -/
  | ctlRangeBHi (pad15 pad8 : Bool) (q : Quads)
  /-- `CTL_NONE_8_15` (R193): register address `8 + reg`. -/
  | ctlNone815 (pad15 : Bool) (reg : BitVec 3) (pad8 : Bool) (payload : BitVec 8)
  /-- `CTL_NONE_16_31` (R193): register address `16 + reg`. -/
  | ctlNone1631 (pad15 : Bool) (reg : BitVec 4) (pad8 : Bool) (payload : BitVec 8)
  /-- `CTL_NONE_32_63` (R193): register address `32 + reg`. -/
  | ctlNone3263 (pad15 : Bool) (reg : BitVec 5) (pad8 : Bool) (payload : BitVec 8)
deriving DecidableEq, Repr

end Sys2Proof
end

