-- ==== Sys2Proof/WellFormed.lean ====
section
/-!
DEFINITION. Which terms of `Instr` stand for an event that a block with the given parameters takes and gives a
meaning: an event whose timestamps and vectors fit their fields (R77), and whose length fields are at most
`MAX_BITS` where it is a BITS event (R76). The length fields of a CS_CHANGE event are ignored (R70, R130, log 6),
and every control word is legal (R80, R81).
-/

namespace Sys2Proof

/-- `rx_len` and `tx_len` are at most `MAX_BITS`: neither is the reserved encoding of R76. -/
def EvtBody.lengthsLegal (p : Config.Params) (ev : EvtBody) : Bool :=
  decide (ev.rxLen.toNat ≤ p.maxBits) && decide (ev.txLen.toNat ≤ p.maxBits)

/-- The timestamps are of `TS_WIDTH` bits and the vectors of `MAX_BITS` bits: the record has room for them (R77). -/
def EvtBody.fits (p : Config.Params) (ev : EvtBody) : Bool :=
  p.isTs ev.startTs && p.isTs ev.endTs &&
    decide (ev.rxVec.toNat < 2 ^ p.maxBits) && decide (ev.txVec.toNat < 2 ^ p.maxBits)

/-- The check every decoded instruction passes. -/
def Instr.wellFormed (p : Config.Params) : Instr → Bool
  | .bits _ ev => ev.fits p && ev.lengthsLegal p
  | .csRise ev => ev.fits p
  | .csFall ev => ev.fits p
  | .csStayLow ev => ev.fits p
  | .csStayHigh ev => ev.fits p
  | .csFirst _ ev => ev.fits p
  | .csRsvd _ ev => ev.fits p
  | .ctlNone01 _ _ _ _ => true
  | .ctlNone2 _ _ _ => true
  | .ctlChsel _ _ _ _ => true
  | .ctlRangeALo _ _ _ => true
  | .ctlRangeAHi _ _ _ => true
  | .ctlRangeBLo _ _ _ => true
  | .ctlRangeBHi _ _ _ => true
  | .ctlNone815 _ _ _ _ => true
  | .ctlNone1631 _ _ _ _ => true
  | .ctlNone3263 _ _ _ _ => true

end Sys2Proof
end

