-- ==== Sys2Proof/Decode.lean ====
section
/-!
DEFINITION. The two encoding levels of PVD-CORE (30_encoding.md): the packed input event record `EVT`
(R71, R72, R77) and the control word `CTLW` (R78 to R80), each read by a total decoder that rejects by
name, and the encoder written from the same tables. `decodeTableWord` reads a row of the opcode table.
-/

namespace Sys2Proof

/-- Why a word stands for no event the block gives a meaning. -/
inductive DecodeError where
  /-- A length field of a BITS event is above `MAX_BITS` (R76). Safe: no step is taken. -/
  | bitCountAboveMaxBits
deriving DecidableEq, Repr

/-- An encoded instruction: an event record or a control word. -/
inductive EncodedWord where
  /-- A packed event record (R77). -/
  | evt (w : Nat)
  /-- A control word (R78). -/
  | ctlw (w : Raw)
deriving DecidableEq, Repr

/-! ## Bit fields -/

/-- The `n` bits of a packed record from bit `lo` upward, as a number. -/
def field (w lo n : Nat) : Nat := w / 2 ^ lo % 2 ^ n

/-- Fields laid out from bit 0 upward, each given by its width and its value. -/
def packFields : List (Nat × Nat) → Nat
  | [] => 0
  | (n, v) :: fs => v % 2 ^ n + 2 ^ n * packFields fs

/-! ## The event record (R70 to R77) -/

/-- The length of an event record: `4 + 2*TS_WIDTH + 2*(6 + MAX_BITS)` bits (R77). -/
def evtBits (p : Config.Params) : Nat := 4 + 2 * p.tsWidth + 2 * (6 + p.maxBits)

/-- `hdr`, the record's low four bits (R77). -/
def evtHdr (w : Nat) : BitVec 4 := BitVec.ofNat 4 (field w 0 4)

/-- The fields above `hdr`, each at the general position R77 gives it. -/
def evtBody (p : Config.Params) (w : Nat) : EvtBody :=
  { startTs := field w 4 p.tsWidth
    endTs := field w (p.tsWidth + 4) p.tsWidth
    rxLen := BitVec.ofNat 6 (field w (2 * p.tsWidth + 4) 6)
    rxVec := BitVec.ofNat 32 (field w (2 * p.tsWidth + 10) p.maxBits)
    txLen := BitVec.ofNat 6 (field w (2 * p.tsWidth + p.maxBits + 10) 6)
    txVec := BitVec.ofNat 32 (field w (2 * p.tsWidth + p.maxBits + 16) p.maxBits) }

/-- `hdr[0]`, the kind: set for a CS_CHANGE event (R71). -/
def hdrIsCsChange (h : BitVec 4) : Bool := h.getLsbD 0

/-- `hdr[2:1]`, the field `cs_old` (R71, R72). -/
def hdrCsOld (h : BitVec 4) : BitVec 2 := h.extractLsb' 1 2

/-- `hdr[3]`, the field `cs_new` (R71). -/
def hdrCsNew (h : BitVec 4) : Bool := h.getLsbD 3

/-- The class of a CS_CHANGE event by its two level fields (R71, R72). -/
def csClass (old : BitVec 2) (new : Bool) (ev : EvtBody) : Instr :=
  if old = 0b00#2 then (if new then .csRise ev else .csStayLow ev)
  else if old = 0b01#2 then (if new then .csStayHigh ev else .csFall ev)
  else if old = 0b10#2 then .csFirst new ev
  else .csRsvd new ev

/-- The instruction an event record stands for (R71), with the reserved bit counts rejected (R76). -/
def decodeEvt (p : Config.Params) (w : Nat) : Except DecodeError Instr :=
  if hdrIsCsChange (evtHdr w) then
    .ok (csClass (hdrCsOld (evtHdr w)) (hdrCsNew (evtHdr w)) (evtBody p w))
  else if (evtBody p w).lengthsLegal p then
    .ok (.bits ((evtHdr w).extractLsb' 1 3) (evtBody p w))
  else
    .error .bitCountAboveMaxBits

/-! ## The control word (R78 to R80) -/

/-- `ctl_reg`, the 6-bit register address `raw[14:9]` (R78, R182). -/
def ctlReg (raw : Raw) : BitVec 6 := raw.extractLsb' 9 6

/-- Bit 15, a pad (R78). -/
def ctlPad15 (raw : Raw) : Bool := raw.getLsbD 15

/-- Bit 8, a pad (R78). -/
def ctlPad8 (raw : Raw) : Bool := raw.getLsbD 8

/-- The payload `raw[7:0]` (R78). -/
def ctlPayload (raw : Raw) : BitVec 8 := raw.extractLsb' 0 8

/-- `chb = raw[7:4]` (R79). -/
def ctlChb (raw : Raw) : BitVec 4 := raw.extractLsb' 4 4

/-- `cha = raw[3:0]` (R79). -/
def ctlCha (raw : Raw) : BitVec 4 := raw.extractLsb' 0 4

/-- `rng_i = (raw >> (6 - 2*i)) & 0x03`, the field of quadrant `i` (R79). -/
def ctlRng (raw : Raw) (i : Nat) : BitVec 2 := raw.extractLsb' (6 - 2 * i) 2

/-- The four quadrant fields of a range-select word (R79). -/
def ctlQuads (raw : Raw) : Quads :=
  { rng0 := ctlRng raw 0, rng1 := ctlRng raw 1, rng2 := ctlRng raw 2, rng3 := ctlRng raw 3 }

/-- The instruction a control word stands for, by the mask and match of its row (R80). -/
def decodeCtlw (raw : Raw) : Instr :=
  if raw &&& 0x7C00#16 = 0x0000#16 then
    .ctlNone01 (ctlPad15 raw) (raw.extractLsb' 9 1) (ctlPad8 raw) (ctlPayload raw)
  else if raw &&& 0x7E00#16 = 0x0400#16 then
    .ctlNone2 (ctlPad15 raw) (ctlPad8 raw) (ctlPayload raw)
  else if raw &&& 0x7E00#16 = 0x0600#16 then
    .ctlChsel (ctlPad15 raw) (ctlPad8 raw) (ctlChb raw) (ctlCha raw)
  else if raw &&& 0x7E00#16 = 0x0800#16 then
    .ctlRangeALo (ctlPad15 raw) (ctlPad8 raw) (ctlQuads raw)
  else if raw &&& 0x7E00#16 = 0x0A00#16 then
    .ctlRangeAHi (ctlPad15 raw) (ctlPad8 raw) (ctlQuads raw)
  else if raw &&& 0x7E00#16 = 0x0C00#16 then
    .ctlRangeBLo (ctlPad15 raw) (ctlPad8 raw) (ctlQuads raw)
  else if raw &&& 0x7E00#16 = 0x0E00#16 then
    .ctlRangeBHi (ctlPad15 raw) (ctlPad8 raw) (ctlQuads raw)
  else if raw &&& 0x7000#16 = 0x1000#16 then
    .ctlNone815 (ctlPad15 raw) (raw.extractLsb' 9 3) (ctlPad8 raw) (ctlPayload raw)
  else if raw &&& 0x6000#16 = 0x2000#16 then
    .ctlNone1631 (ctlPad15 raw) (raw.extractLsb' 9 4) (ctlPad8 raw) (ctlPayload raw)
  else
    .ctlNone3263 (ctlPad15 raw) (raw.extractLsb' 9 5) (ctlPad8 raw) (ctlPayload raw)

/-- The decoder of a block with the given parameters: total on every record and every control word. -/
def decode (p : Config.Params) : EncodedWord → Except DecodeError Instr
  | .evt w => decodeEvt p w
  | .ctlw w => .ok (decodeCtlw w)

/-! ## The encoder -/

/-- An event record from its `hdr` and its fields, laid out from bit 0 upward (R77). -/
def packEvt (p : Config.Params) (h : BitVec 4) (ev : EvtBody) : Nat :=
  packFields [(4, h.toNat), (p.tsWidth, ev.startTs), (p.tsWidth, ev.endTs), (6, ev.rxLen.toNat),
    (p.maxBits, ev.rxVec.toNat), (6, ev.txLen.toNat), (p.maxBits, ev.txVec.toNat)]

/-- The `hdr` of a CS_CHANGE event: `{cs_new, cs_old, 1}` (R71). -/
def csHdr (old : BitVec 2) (new : Bool) : BitVec 4 := BitVec.ofBool new ++ old ++ 1#1

/-- A control word from its fields: `{pad, ctl_reg, pad, payload}` (R78). -/
def packCtlw (pad15 : Bool) (reg : BitVec 6) (pad8 : Bool) (payload : BitVec 8) : Raw :=
  (BitVec.ofBool pad15 ++ reg ++ BitVec.ofBool pad8 ++ payload).cast (by decide)

/-- The payload of a range-select word, `rng_0` in bits 7 and 6 (R79). -/
def packQuads (q : Quads) : BitVec 8 := q.rng0 ++ q.rng1 ++ q.rng2 ++ q.rng3

/-- The word of an instruction in a block with the given parameters (R71, R77 for an event; R78 to R80 for a control
word). -/
def encode (p : Config.Params) : Instr → EncodedWord
  | .bits pad ev => .evt (packEvt p (pad ++ 0#1) ev)
  | .csRise ev => .evt (packEvt p (csHdr 0b00#2 true) ev)
  | .csFall ev => .evt (packEvt p (csHdr 0b01#2 false) ev)
  | .csStayLow ev => .evt (packEvt p (csHdr 0b00#2 false) ev)
  | .csStayHigh ev => .evt (packEvt p (csHdr 0b01#2 true) ev)
  | .csFirst new ev => .evt (packEvt p (csHdr 0b10#2 new) ev)
  | .csRsvd new ev => .evt (packEvt p (csHdr 0b11#2 new) ev)
  | .ctlNone01 p15 reg p8 payload => .ctlw (packCtlw p15 (0#5 ++ reg) p8 payload)
  | .ctlNone2 p15 p8 payload => .ctlw (packCtlw p15 2#6 p8 payload)
  | .ctlChsel p15 p8 chb cha => .ctlw (packCtlw p15 3#6 p8 (chb ++ cha))
  | .ctlRangeALo p15 p8 q => .ctlw (packCtlw p15 4#6 p8 (packQuads q))
  | .ctlRangeAHi p15 p8 q => .ctlw (packCtlw p15 5#6 p8 (packQuads q))
  | .ctlRangeBLo p15 p8 q => .ctlw (packCtlw p15 6#6 p8 (packQuads q))
  | .ctlRangeBHi p15 p8 q => .ctlw (packCtlw p15 7#6 p8 (packQuads q))
  | .ctlNone815 p15 reg p8 payload => .ctlw (packCtlw p15 (1#3 ++ reg) p8 payload)
  | .ctlNone1631 p15 reg p8 payload => .ctlw (packCtlw p15 (1#2 ++ reg) p8 payload)
  | .ctlNone3263 p15 reg p8 payload => .ctlw (packCtlw p15 (1#1 ++ reg) p8 payload)

/-! ## The opcode table's words -/

/-- How many bits the opcode table gives a `CTLW` row: the whole control word. A row of any other length is an
`EVT` row, whose bits are the record's low ones, every bit above them 0 (log 12). -/
def ctlwTableBits : Nat := 16

/-- A table row's word as the word the block takes. The table gives the event record at the default parameters
(R77). -/
def tableWord (nbits w : Nat) : EncodedWord :=
  if nbits = ctlwTableBits then .ctlw (BitVec.ofNat 16 w)
  else .evt (w % 2 ^ evtBits Config.defaults)

/-- The instruction the decoder reads from a table row's word at the default parameters, none where it refuses. -/
def decodeTableWord (nbits w : Nat) : Option Instr := (decode Config.defaults (tableWord nbits w)).toOption

end Sys2Proof
end

