-- ==== Sys2Proof/Machine/State.lean ====
section
/-!
DEFINITION. The state of PVD-CORE as plain data: the one FrameState (R20 to R27), the output buffer of the
port level (R39), the configuration input (R30) and the input ports' samples (R254), with the reasons a
step can stop. The block has no memory (R50), no register file and no program counter (R29), no exception
or mode (R220, R226): State holds none.
-/

namespace Sys2Proof.Machine

/-- The two annotation classes (R37). -/
inductive AnnClass where
  /-- Device to host. -/
  | voltage
  /-- Host to device. -/
  | control
deriving DecidableEq, Repr

/-- Which annotation a record is (R38). The kind codes 6 and 7 are reserved and never emitted. -/
inductive AnnKind where
  | volt | regId | chb | cha | rangeLabel | quadRange
deriving DecidableEq, Repr

/-- An annotation record (R36). -/
structure Annotation where
  /-- The start of the annotated span, of `TS_WIDTH` bits. -/
  startTs : Nat
  /-- The end of the annotated span, of `TS_WIDTH` bits. -/
  endTs : Nat
  /-- The class (R37). -/
  classId : AnnClass
  /-- Which annotation it is (R38). -/
  kind : AnnKind
  /-- The quadrant index of a quadrant record, else 0 (R38). -/
  aux : BitVec 2
  /-- The value the text renders (R38). -/
  value : BitVec 16
  /-- The rendering, which the port does not carry (R36, R82). -/
  text : String
deriving DecidableEq, Repr

/-- The block's FrameState, of which exactly one is live (R20). -/
structure FrameState where
  /-- `acc_rx`, the device-to-host accumulator (R21). -/
  accRx : Acc
  /-- `acc_tx`, the host-to-device accumulator (R22). -/
  accTx : Acc
  /-- `frame_start_valid`: a frame is open, IN_FRAME (R23, R32). -/
  frameStartValid : Bool
  /-- `frame_start_ts`, of `TS_WIDTH` bits, its content unspecified while `frame_start_valid` is 0 (R23). -/
  frameStartTs : Nat
  /-- `frame_end_ts`, of `TS_WIDTH` bits, the `end_ts` of the most recent BITS event (R24). -/
  frameEndTs : Nat
  /-- `bit_width_valid`: `bit_width_ts` is set (R25). -/
  bitWidthValid : Bool
  /-- `bit_width_ts`, of `TS_WIDTH` bits, the duration of one bit-cell (R25). -/
  bitWidthTs : Nat
  /-- `rx_present`: the last BITS event of the frame carried rx bits (R26). -/
  rxPresent : Bool
  /-- `tx_present`: the last BITS event of the frame carried tx bits (R27). -/
  txPresent : Bool
deriving DecidableEq, Repr

/-- The input ports as sampled on one rising edge of `clk` (R254). -/
structure PortIn where
  /-- `rst`, synchronous and active high (R250). -/
  rst : Bool
  /-- `ev_valid`: the upstream layer offers `ev`. -/
  evValid : Bool
  /-- `ev`, a packed event record of `evtBits` bits, the ones on the port (R77). -/
  ev : Nat
  /-- `ann_ready`: the sink takes the record shown. -/
  annReady : Bool
  /-- `RANGE_SEL[1:0]` (R30). -/
  rangeSel : RangeSel
deriving DecidableEq, Repr

/-- Why a step faults. The block has no fault mechanism: it raises no exception, keeps no fault state and
has no error output (R220), and no memory an access to which could be outside it (R50). So there is no
constructor, and no step of the model faults. -/
inductive Fault where
deriving DecidableEq, Repr

/-- Why a step is refused: an input the spec gives no meaning and tells a model to refuse (R220). -/
inductive Refusal where
  /-- Raised by an arm of `exec` whose instruction has no meaning yet. Safe: the run stops. -/
  | notModelled (mnemonic : String)
  /-- Raised by `CS_RSVD`: "reserved cs_old encoding" (R73). Safe: the run stops. -/
  | reservedCsOld
  /-- Raised by the decoder and by `BITS`: "bit count above MAX_BITS" (R76). Safe: the run stops. -/
  | bitCountAboveMaxBits
  /-- Raised by `CS_RISE`: "reserved RANGE_SEL" (R139). Safe: the run stops. -/
  | reservedRangeSel
deriving DecidableEq, Repr

/-- The machine: the block's parameters and registers, its ports' inputs, and what the sink has taken. -/
structure State where
  /-- The parameters the block is built with (R5, R8): no step changes them (log 1). -/
  params : Config.Params
  /-- The block's FrameState (R20). -/
  frame : FrameState
  /-- The output buffer (R39): records produced by the last accepted event and not yet taken, the oldest
  first. -/
  outBuf : List Annotation
  /-- The level of the configuration input `RANGE_SEL` (R30), which `CS_RISE` samples (R139). -/
  rangeSel : RangeSel
  /-- The samples of the input ports still to come, the next rising edge's first (R254). The position in
  this stream is what stands in a program counter's place (R29). -/
  inputs : List PortIn
  /-- THE MODEL'S OWN: the records that have left the block, the oldest first (log 7). -/
  delivered : List Annotation
  /-- THE MODEL'S OWN: how many free values have been drawn (log 3). -/
  draws : Nat
deriving DecidableEq, Repr

/-- The reset values of the FrameState (R35), with the one the spec leaves unspecified, `frame_start_ts`,
an argument. -/
def FrameState.reset (frameStart : Nat) : FrameState :=
  { accRx := 0
    accTx := 0
    frameStartValid := false
    frameStartTs := frameStart
    frameEndTs := 0
    bitWidthValid := false
    bitWidthTs := 0
    rxPresent := false
    txPresent := false }

/-- The machine right after reset (R35), a block with the default parameters (R5, R8): IDLE, the buffer empty, no
sample waiting. DESIGN CHOICE (log 5): the unspecified `frame_start_ts` is 0. DESIGN CHOICE (log 8): the input
`RANGE_SEL`, which is no register, is at the code of the source's default range (R30). -/
def State.reset : State :=
  { params := Config.defaults
    frame := FrameState.reset 0
    outBuf := []
    rangeSel := 0
    inputs := []
    delivered := []
    draws := 0 }

end Sys2Proof.Machine
end

