-- ==== Sys2Proof/Machine/Operands.lean ====
section
/-!
DEFINITION. What an instruction reads: the bit sequences of an event (R75), the corrected value of an
accumulator (R138), the sampled range (R30, R31), the frame start (R23) and the quadrant fields (R79).
-/

namespace Sys2Proof.Machine

/-- The sequence `s` of a direction: `s[k] = vec[k]` for `k < len` (R75). -/
def bitSeq (len : Len) (vec : Vec) : List Bool := (List.range len.toNat).map vec.getLsbD

/-- The event's rx sequence (R75). -/
def rxSeq (ev : EvtBody) : List Bool := bitSeq ev.rxLen ev.rxVec

/-- The event's tx sequence (R75). -/
def txSeq (ev : EvtBody) : List Bool := bitSeq ev.txLen ev.txVec

/-- The value handed to a decoder, `acc[16:1]` (R138). -/
def correctedRaw (a : Acc) : Raw := a.extractLsb' 1 16

/-- `Rm(RANGE_SEL)`, the range magnitude in millivolts, none for the reserved code (R30, R31). -/
def rangeMillivolts (r : RangeSel) : Option Nat :=
  if r = 0b00#2 then some 5000
  else if r = 0b01#2 then some 2500
  else if r = 0b10#2 then some 10000
  else none

/-- What a read of `frame_start_ts` gives: the register while it is set, and a free value while
`frame_start_valid = 0`, when its content is unspecified (R23, log 5). -/
def frameStart (s : State) : Nat :=
  if s.frame.frameStartValid then s.frame.frameStartTs else Config.freeFrameStart s.draws % 2 ^ s.params.tsWidth

/-- The field of quadrant `i` (R79, R187). -/
def quadField (q : Quads) : Nat → BitVec 2
  | 0 => q.rng0
  | 1 => q.rng1
  | 2 => q.rng2
  | _ => q.rng3

end Sys2Proof.Machine
end

