-- ==== Sys2Proof/Machine/Flags.lean ====
section
/-!
DEFINITION. The conditions the block computes: the presence flags (R101), the edge detector (R131), and
whether the span arithmetic of a control decode is exact (R181).
-/

namespace Sys2Proof.Machine

/-- The presence flag an event writes for a direction of the given length (R101). -/
def presence (len : Len) : Bool := decide (0 < len.toNat)

/-- `fire`: the rising edge that closes a frame (R131). The old level is none for `null`. -/
def edgeFires (old : Option Bool) (new : Bool) : Bool := old == some false && new

/-- The levels a CS_CHANGE event of a defined class carries, `(old_level, new_level)` (R71, R72). -/
def csLevels : Instr → Option (Option Bool × Bool)
  | .csRise _ => some (some false, true)
  | .csFall _ => some (some true, false)
  | .csStayLow _ => some (some false, false)
  | .csStayHigh _ => some (some true, true)
  | .csFirst new _ => some (none, new)
  | .csRsvd _ _ => none
  | .bits _ _ => none
  | .ctlNone01 _ _ _ _ => none
  | .ctlNone2 _ _ _ => none
  | .ctlChsel _ _ _ _ => none
  | .ctlRangeALo _ _ _ => none
  | .ctlRangeAHi _ _ _ => none
  | .ctlRangeBLo _ _ _ => none
  | .ctlRangeBHi _ _ _ => none
  | .ctlNone815 _ _ _ _ => none
  | .ctlNone1631 _ _ _ _ => none
  | .ctlNone3263 _ _ _ _ => none

/-- `fs + 16 * w < 2^TS_WIDTH`: the spans of a control decode are exact (R181). -/
def spanExact (p : Config.Params) (fs w : Nat) : Bool := p.isTs (fs + 16 * w)

/-- `end_ts < start_ts`: the width a BITS event derives is unspecified (R106). -/
def spanReversed (ev : EvtBody) : Bool := decide (ev.endTs < ev.startTs)

end Sys2Proof.Machine
end

