-- ==== Sys2Proof/Machine/Record.lean ====
section
/-!
DEFINITION. The output record (R36 to R38): its codes, its packing at the port (R82), and the texts
(R12's `hex2`, `dec` and `pad3`, R163, R185 to R187, R192).
-/

namespace Sys2Proof.Machine

/-- The code of a class (R37). -/
def classCode : AnnClass → BitVec 1
  | .voltage => 0
  | .control => 1

/-- The code of a kind (R38). -/
def kindCode : AnnKind → BitVec 3
  | .volt => 0
  | .regId => 1
  | .chb => 2
  | .cha => 3
  | .rangeLabel => 4
  | .quadRange => 5

/-- The class each kind belongs to (R38). -/
def kindClass : AnnKind → AnnClass
  | .volt => .voltage
  | .regId => .control
  | .chb => .control
  | .cha => .control
  | .rangeLabel => .control
  | .quadRange => .control

/-- The length of an output record on the port: `2*TS_WIDTH + 22` bits, 150 at the default (R82). -/
def annBits (p : Config.Params) : Nat := 2 * p.tsWidth + 22

/-- The record as one word, packed from bit 0 upward, without the text (R82). -/
def packAnn (p : Config.Params) (r : Annotation) : Nat :=
  packFields [(p.tsWidth, r.startTs), (p.tsWidth, r.endTs), (1, (classCode r.classId).toNat),
    (3, (kindCode r.kind).toNat), (2, r.aux.toNat), (16, r.value.toNat)]

/-- The lowercase hexadecimal digit of a number below 16. -/
def hexDigit (n : Nat) : Char := if n < 10 then Char.ofNat (48 + n) else Char.ofNat (87 + n)

/-- The decimal digit of a number below 10. -/
def decDigit (n : Nat) : Char := Char.ofNat (48 + n)

/-- `hex2(n)`: two lowercase hexadecimal digits (R12). -/
def hex2 (n : BitVec 8) : String := String.ofList [hexDigit (n.toNat / 16), hexDigit (n.toNat % 16)]

/-- `dec(n)`: the decimal spelling with no leading zeros (R12). -/
def dec (n : Nat) : String := String.ofList (Nat.toDigits 10 n)

/-- `pad3(n)`: three decimal digits with leading zeros, for `n` at most 999 (R12). -/
def pad3 (n : Nat) : String :=
  String.ofList [decDigit (n / 100 % 10), decDigit (n / 10 % 10), decDigit (n % 10)]

/-- The text of a voltage in millivolts (R163). -/
def voltText (mv : Nat) : String := dec (mv / 1000) ++ "." ++ pad3 (mv % 1000) ++ "V"

/-- `LABEL`, the range-register label table, by `ctl_reg - 4` (R187). -/
def rangeLabel (k : BitVec 2) : String :=
  if k = 0 then "Range A: Ch3-0"
  else if k = 1 then "Range A: Ch7-4"
  else if k = 2 then "Range B: Ch3-0"
  else "Range B: Ch7-4"

/-- `DISPLAY`, the quadrant display table. The second "10V" is normative (R192). -/
def rangeDisplay (rng : BitVec 2) : String :=
  if rng = 0 then "10V"
  else if rng = 1 then "2.5V"
  else if rng = 2 then "5V"
  else "10V"

/-- The text a sink renders from `kind`, `aux` and `value` alone (R36, R82), none for a combination that the
table of R38 does not list. -/
def renderText (kind : AnnKind) (aux : BitVec 2) (value : BitVec 16) : Option String :=
  match kind with
  | .volt => if aux = 0 ∧ value.toNat ≤ 20000 then some (voltText value.toNat) else none
  | .regId => if aux = 0 ∧ value = 3 then some (hex2 (value.setWidth 8)) else none
  | .chb => if aux = 0 ∧ value.toNat < 16 then some (hex2 (value.setWidth 8)) else none
  | .cha => if aux = 0 ∧ value.toNat < 16 then some (hex2 (value.setWidth 8)) else none
  | .rangeLabel => if aux = 0 ∧ value.toNat < 4 then some (rangeLabel (value.setWidth 2)) else none
  | .quadRange => if value.toNat < 4 then some (rangeDisplay (value.setWidth 2)) else none

/-- The refusal reason in the spec's words (R73, R76, R139), empty for a refusal the spec does not name. -/
def refusalText : Refusal → String
  | .reservedCsOld => "reserved cs_old encoding"
  | .bitCountAboveMaxBits => "bit count above MAX_BITS"
  | .reservedRangeSel => "reserved RANGE_SEL"
  | _ => ""

end Sys2Proof.Machine
end

