-- ==== Sys2Proof/Machine/Ops.lean ====
section
/-!
DEFINITION. The named operations over the block's registers and its output: the accumulation fold (R104),
the bit width (R105), the parts of a BITS event (R101 to R105), the span of bit-cells (R181), `Emit` (R12)
and the finalize reset (R140). The block has no memory operation (R50) and no exception to take or to
return from (R220, R223), so there is none here.
-/

namespace Sys2Proof.Machine

/-- The outcome of an instruction. -/
abbrev Result := Host.Outcome State Fault Refusal

/-- Go on from a next state, and stop where the outcome stops. -/
def andThen (o : Result) (f : State → Result) : Result :=
  match o with
  | .next s => f s
  | .fault r => .fault r
  | .refused r => .refused r

/-! ## A BITS event (R100) -/

/-- One step of the fold: `a <- ((a | b) << 1) mod 2^17` (R104). -/
def foldBit (a : Acc) (b : Bool) : Acc := (a ||| (BitVec.ofBool b).setWidth 17) <<< 1

/-- The accumulation fold: the elements from the last down to the first (R104). -/
def foldBits (a : Acc) (s : List Bool) : Acc := s.reverse.foldl foldBit a

/-- The width of a bit-cell, `(end_ts - start_ts) div n` (R105), and a free value where `end_ts` is below
`start_ts` (R106, log 3). -/
def cellWidth (p : Config.Params) (ev : EvtBody) (n draws : Nat) : Nat :=
  if spanReversed ev then Config.freeBitWidth draws % 2 ^ p.tsWidth
  else (ev.endTs - ev.startTs) / n

/-- Both presence flags, each from its own direction (R101). -/
def recordPresence (ev : EvtBody) (f : FrameState) : FrameState :=
  { f with rxPresent := presence ev.rxLen, txPresent := presence ev.txLen }

/-- The frame start, written only while unset (R102). -/
def openFrame (ev : EvtBody) (f : FrameState) : FrameState :=
  if f.frameStartValid then f else { f with frameStartTs := ev.startTs, frameStartValid := true }

/-- The frame end, the last event's (R103). -/
def recordEnd (ev : EvtBody) (f : FrameState) : FrameState := { f with frameEndTs := ev.endTs }

/-- The rx direction: the fold and the width, where the event carries rx bits (R104, R105). -/
def accumulateRx (p : Config.Params) (ev : EvtBody) (draws : Nat) (f : FrameState) : FrameState :=
  if presence ev.rxLen then
    { f with
      accRx := foldBits f.accRx (rxSeq ev)
      bitWidthTs := cellWidth p ev ev.rxLen.toNat draws
      bitWidthValid := true }
  else f

/-- The tx direction: the fold and the width, where the event carries tx bits (R104, R105). -/
def accumulateTx (p : Config.Params) (ev : EvtBody) (draws : Nat) (f : FrameState) : FrameState :=
  if presence ev.txLen then
    { f with
      accTx := foldBits f.accTx (txSeq ev)
      bitWidthTs := cellWidth p ev ev.txLen.toNat draws
      bitWidthValid := true }
  else f

/-- How many free values a BITS event draws: one where it writes an unspecified width (R106). -/
def widthDraws (ev : EvtBody) : Nat :=
  if spanReversed ev && (presence ev.rxLen || presence ev.txLen) then 1 else 0

/-- The FrameState after a BITS event: flags, frame start, frame end, rx, then tx (R100). -/
def accumulateFrame (p : Config.Params) (ev : EvtBody) (draws : Nat) (f : FrameState) : FrameState :=
  accumulateTx p ev draws (accumulateRx p ev draws (recordEnd ev (openFrame ev (recordPresence ev f))))

/-- A BITS event as one atomic step (R100). It emits nothing. -/
def accumulate (ev : EvtBody) (s : State) : State :=
  { s with frame := accumulateFrame s.params ev s.draws s.frame, draws := s.draws + widthDraws ev }

/-! ## Output records -/

/-- `Emit` of several records in order: they are appended to the event's output list (R12). -/
def emit (rs : List Annotation) (s : State) : State := { s with outBuf := s.outBuf ++ rs }

/-- `fs + w * k`, the start of bit-cell `k`, where it is exact (R181). -/
def cellTs (fs w : Nat) (k : Nat) : Nat := fs + w * k

/-- The start of a span that begins at cell `a` (R181), a free value where the spans are not exact (log 4). -/
def spanStart (p : Config.Params) (fs w : Nat) (draws a : Nat) : Nat :=
  if spanExact p fs w then cellTs fs w a else Config.freeSpanStart draws a % 2 ^ p.tsWidth

/-- The end of a span that ends before cell `b` (R181), a free value where the spans are not exact (log 4). -/
def spanEnd (p : Config.Params) (fs w : Nat) (draws b : Nat) : Nat :=
  if spanExact p fs w then cellTs fs w b else Config.freeSpanEnd draws b % 2 ^ p.tsWidth

/-- A control record over the bit-cells `[a, b)` of the frame (R180, R181). -/
def controlRecord (s : State) (a b : Nat) (kind : AnnKind) (aux : BitVec 2) (value : BitVec 16)
    (text : String) : Annotation :=
  { startTs := spanStart s.params (frameStart s) s.frame.bitWidthTs s.draws a
    endTs := spanEnd s.params (frameStart s) s.frame.bitWidthTs s.draws b
    classId := .control
    kind := kind
    aux := aux
    value := value
    text := text }

/-- How many draws a control decode that emits records takes: one where its spans are not exact. -/
def spanDraws (s : State) : Nat := if spanExact s.params (frameStart s) s.frame.bitWidthTs then 0 else 1

/-- Emit the records of a control decode: nothing else of the state is written (R180). -/
def emitControl (rs : List Annotation) (s : State) : State :=
  { emit rs s with draws := s.draws + spanDraws s }

/-! ## The finalize reset -/

/-- Step 3 of the finalize sequence (R140). `frame_end_ts` and the bit width keep their values (R143). -/
def clearFrame (f : FrameState) : FrameState :=
  { f with accRx := 0, accTx := 0, frameStartValid := false, rxPresent := false, txPresent := false }

/-- Step 3 on the machine (R140). -/
def finalizeReset (s : State) : State := { s with frame := clearFrame s.frame }

end Sys2Proof.Machine
end

