-- ==== Sys2Proof/Machine/Bits.lean ====
section
/-!
DEFINITION. The Frame Accumulator's family (40_accumulator.md): the BITS event.
-/

namespace Sys2Proof.Machine

/-- `BITS` (R100): accumulate one group of duplex bits into the current frame. `hdr[3:1]` is not read (R74). A
bit count above `MAX_BITS` is refused (R76); the decoder lets none through. -/
def execBits (_pad : BitVec 3) (ev : EvtBody) (s : State) : Result :=
  if ev.lengthsLegal s.params then .next (accumulate ev s) else .refused .bitCountAboveMaxBits

end Sys2Proof.Machine
end

