-- ==== Sys2Proof/Machine/Control.lean ====
section
/-!
DEFINITION. The Control Decoder (43_control_decoder.md): a meaning for each register-address class of
format `CTLW`, and the dispatch by register address (R183). The pads and, for an unrecognized address, the
payload are read by none of them (R81, R193, R196).
-/

namespace Sys2Proof.Machine

/-- `CTL_CHSEL` (R184 to R186): the register label, then ChB, then ChA. -/
def execCtlChsel (_pad15 _pad8 : Bool) (chb cha : BitVec 4) (s : State) : Result :=
  .next (emitControl
    [controlRecord s 0 8 .regId 0 3 (hex2 3),
     controlRecord s 8 12 .chb 0 (chb.setWidth 16) (hex2 (chb.setWidth 8)),
     controlRecord s 12 16 .cha 0 (cha.setWidth 16) (hex2 (cha.setWidth 8))] s)

/-- The record of quadrant `i`, over the cells `[8 + 2i, 10 + 2i)` (R187, R192). -/
def quadRecord (s : State) (q : Quads) (i : Nat) : Annotation :=
  controlRecord s (8 + 2 * i) (10 + 2 * i) .quadRange (BitVec.ofNat 2 i) ((quadField q i).setWidth 16)
    (rangeDisplay (quadField q i))

/-- The records of the range-select branch (R187): the label of `k = ctl_reg - 4`, then the quadrants. -/
def rangeRecords (s : State) (k : BitVec 2) (q : Quads) : List Annotation :=
  controlRecord s 0 8 .rangeLabel 0 (k.setWidth 16) (rangeLabel k) :: (List.range 4).map (quadRecord s q)

/-- `CTL_RANGE_A_LO` (R188): the range-select branch for `ctl_reg = 4`. -/
def execCtlRangeALo (_pad15 _pad8 : Bool) (q : Quads) (s : State) : Result :=
  .next (emitControl (rangeRecords s 0 q) s)

/-- `CTL_RANGE_A_HI` (R189): the range-select branch for `ctl_reg = 5`. -/
def execCtlRangeAHi (_pad15 _pad8 : Bool) (q : Quads) (s : State) : Result :=
  .next (emitControl (rangeRecords s 1 q) s)

/-- `CTL_RANGE_B_LO` (R190): the range-select branch for `ctl_reg = 6`. -/
def execCtlRangeBLo (_pad15 _pad8 : Bool) (q : Quads) (s : State) : Result :=
  .next (emitControl (rangeRecords s 2 q) s)

/-- `CTL_RANGE_B_HI` (R191): the range-select branch for `ctl_reg = 7`. -/
def execCtlRangeBHi (_pad15 _pad8 : Bool) (q : Quads) (s : State) : Result :=
  .next (emitControl (rangeRecords s 3 q) s)

/-- `CTL_NONE_0_1` (R193): nothing is emitted, and it is no error. -/
def execCtlNone01 (_pad15 : Bool) (_reg : BitVec 1) (_pad8 : Bool) (_payload : BitVec 8) (s : State) : Result :=
  .next s

/-- `CTL_NONE_2` (R193): nothing is emitted, and it is no error. -/
def execCtlNone2 (_pad15 _pad8 : Bool) (_payload : BitVec 8) (s : State) : Result := .next s

/-- `CTL_NONE_8_15` (R193): nothing is emitted, and it is no error. -/
def execCtlNone815 (_pad15 : Bool) (_reg : BitVec 3) (_pad8 : Bool) (_payload : BitVec 8) (s : State) : Result :=
  .next s

/-- `CTL_NONE_16_31` (R193): nothing is emitted, and it is no error. -/
def execCtlNone1631 (_pad15 : Bool) (_reg : BitVec 4) (_pad8 : Bool) (_payload : BitVec 8) (s : State) : Result :=
  .next s

/-- `CTL_NONE_32_63` (R193): nothing is emitted, and it is no error. -/
def execCtlNone3263 (_pad15 : Bool) (_reg : BitVec 5) (_pad8 : Bool) (_payload : BitVec 8) (s : State) : Result :=
  .next s

/-- `CTL_NONE` (R193), by the row of R80 the register address falls in. -/
def controlNone (raw : Raw) (s : State) : Result :=
  let reg := (ctlReg raw).toNat
  if reg < 2 then execCtlNone01 (ctlPad15 raw) (raw.extractLsb' 9 1) (ctlPad8 raw) (ctlPayload raw) s
  else if reg = 2 then execCtlNone2 (ctlPad15 raw) (ctlPad8 raw) (ctlPayload raw) s
  else if reg < 16 then execCtlNone815 (ctlPad15 raw) (raw.extractLsb' 9 3) (ctlPad8 raw) (ctlPayload raw) s
  else if reg < 32 then execCtlNone1631 (ctlPad15 raw) (raw.extractLsb' 9 4) (ctlPad8 raw) (ctlPayload raw) s
  else execCtlNone3263 (ctlPad15 raw) (raw.extractLsb' 9 5) (ctlPad8 raw) (ctlPayload raw) s

/-- `ControlDecode` (R180): exactly one branch runs, selected by the register address (R183). -/
def controlDecode (raw : Raw) (s : State) : Result :=
  let reg := (ctlReg raw).toNat
  if reg = 3 then execCtlChsel (ctlPad15 raw) (ctlPad8 raw) (ctlChb raw) (ctlCha raw) s
  else if reg = 4 then execCtlRangeALo (ctlPad15 raw) (ctlPad8 raw) (ctlQuads raw) s
  else if reg = 5 then execCtlRangeAHi (ctlPad15 raw) (ctlPad8 raw) (ctlQuads raw) s
  else if reg = 6 then execCtlRangeBLo (ctlPad15 raw) (ctlPad8 raw) (ctlQuads raw) s
  else if reg = 7 then execCtlRangeBHi (ctlPad15 raw) (ctlPad8 raw) (ctlQuads raw) s
  else controlNone raw s

end Sys2Proof.Machine
end

