-- ==== Sys2Proof/Machine/Voltage.lean ====
section
/-!
DEFINITION. The Voltage Decoder (42_voltage_decoder.md): the exact integer rule and its one record.
-/

namespace Sys2Proof.Machine

/-- The rounded voltage in millivolts: `(2 * raw * rm + 32767) div 65534` (R162). -/
def millivolts (raw : Raw) (rm : Nat) : Nat := (2 * raw.toNat * rm + 32767) / 65534

/-- The record of `VoltageDecode` over the whole frame (R160, R164). -/
def voltageRecord (rm : Nat) (s : State) : Annotation :=
  { startTs := frameStart s
    endTs := s.frame.frameEndTs
    classId := .voltage
    kind := .volt
    aux := 0
    value := BitVec.ofNat 16 (millivolts (correctedRaw s.frame.accRx) rm)
    text := voltText (millivolts (correctedRaw s.frame.accRx) rm) }

/-- `VoltageDecode` (R160): exactly one record. -/
def voltageDecode (rm : Nat) (s : State) : State := emit [voltageRecord rm s] s

end Sys2Proof.Machine
end

