-- ==== Sys2Proof/Machine/ChipSelect.lean ====
section
/-!
DEFINITION. The chip-select family (41_cs_edge_finalizer.md): the finalize sequence and the classes of the
CS_CHANGE event. No field of the event but its header is read (R130).
-/

namespace Sys2Proof.Machine

/-- Step 1 of the finalize sequence: the voltage decode, where rx bits are present (R137). -/
def finalizeVoltage (rm : Nat) (s : State) : State := if s.frame.rxPresent then voltageDecode rm s else s

/-- Step 2 of the finalize sequence: the control decode, where tx bits are present (R137). -/
def finalizeControl (s : State) : Result :=
  if s.frame.txPresent then controlDecode (correctedRaw s.frame.accTx) s else .next s

/-- `Finalize` with the range magnitude `rm`: voltage, control, reset (R137). -/
def finalizeWith (rm : Nat) (s : State) : Result :=
  andThen (finalizeControl (finalizeVoltage rm s)) fun t => .next (finalizeReset t)

/-- `Finalize(RANGE_SEL)` (R137): the range is sampled once, whether or not rx bits are present, and the
reserved code is refused (R139). -/
def finalize (s : State) : Result :=
  match rangeMillivolts s.rangeSel with
  | some rm => finalizeWith rm s
  | none => .refused .reservedRangeSel

/-- `CS_RISE` (R132): the rising edge closes the frame. -/
def execCsRise (_ev : EvtBody) (s : State) : Result := finalize s

/-- `CS_FALL` (R133): no register is written and nothing is emitted. -/
def execCsFall (_ev : EvtBody) (s : State) : Result := .next s

/-- `CS_STAY_LOW` (R134): a no-op. -/
def execCsStayLow (_ev : EvtBody) (s : State) : Result := .next s

/-- `CS_STAY_HIGH` (R135): a no-op. -/
def execCsStayHigh (_ev : EvtBody) (s : State) : Result := .next s

/-- `CS_FIRST` (R136): a no-op for either new level. -/
def execCsFirst (_newLevel : Bool) (_ev : EvtBody) (s : State) : Result := .next s

/-- `CS_RSVD` (R73): the block's response is unspecified, and a model refuses the event. -/
def execCsRsvd (_newLevel : Bool) (_ev : EvtBody) (_s : State) : Result := .refused .reservedCsOld

end Sys2Proof.Machine
end

