-- ==== Sys2Proof/Machine/Dispatch.lean ====
section
/-!
DEFINITION. One arm per row of spec/opcode_table.json, each one call of its meaning.
-/

namespace Sys2Proof.Machine

def exec (i : Instr) (s : State) : Host.Outcome State Fault Refusal :=
  match i with
  -- format EVT
  | .bits pad ev => Sys2Proof.Machine.execBits pad ev s
  | .csRise ev => Sys2Proof.Machine.execCsRise ev s
  | .csFall ev => Sys2Proof.Machine.execCsFall ev s
  | .csStayLow ev => Sys2Proof.Machine.execCsStayLow ev s
  | .csStayHigh ev => Sys2Proof.Machine.execCsStayHigh ev s
  | .csFirst new ev => Sys2Proof.Machine.execCsFirst new ev s
  | .csRsvd new ev => Sys2Proof.Machine.execCsRsvd new ev s
  -- format CTLW
  | .ctlNone01 p15 reg p8 payload => Sys2Proof.Machine.execCtlNone01 p15 reg p8 payload s
  | .ctlNone2 p15 p8 payload => Sys2Proof.Machine.execCtlNone2 p15 p8 payload s
  | .ctlChsel p15 p8 chb cha => Sys2Proof.Machine.execCtlChsel p15 p8 chb cha s
  | .ctlRangeALo p15 p8 q => Sys2Proof.Machine.execCtlRangeALo p15 p8 q s
  | .ctlRangeAHi p15 p8 q => Sys2Proof.Machine.execCtlRangeAHi p15 p8 q s
  | .ctlRangeBLo p15 p8 q => Sys2Proof.Machine.execCtlRangeBLo p15 p8 q s
  | .ctlRangeBHi p15 p8 q => Sys2Proof.Machine.execCtlRangeBHi p15 p8 q s
  | .ctlNone815 p15 reg p8 payload => Sys2Proof.Machine.execCtlNone815 p15 reg p8 payload s
  | .ctlNone1631 p15 reg p8 payload => Sys2Proof.Machine.execCtlNone1631 p15 reg p8 payload s
  | .ctlNone3263 p15 reg p8 payload => Sys2Proof.Machine.execCtlNone3263 p15 reg p8 payload s

end Sys2Proof.Machine
end

