-- ==== Sys2Proof/Machine/Port.lean ====
section
/-!
DEFINITION. The ports (70_reset_and_hazards.md): reset, the two valid/ready handshakes and one clock cycle,
and beside it the same event at the transaction level (R13), where every record goes straight to the sink.
-/

namespace Sys2Proof.Machine

/-! ## The outputs of a cycle -/

/-- `ev_ready`: exactly when `rst = 0` and the output buffer is empty (R255). -/
def evReady (s : State) (i : PortIn) : Bool := !i.rst && s.outBuf.isEmpty

/-- `ann_valid`: exactly when `rst = 0` and the output buffer holds a record (R255). -/
def annValid (s : State) (i : PortIn) : Bool := !i.rst && !s.outBuf.isEmpty

/-- `ann`: the oldest record still buffered (R254), as the word of R82. -/
def annPort (s : State) : Option Nat := s.outBuf.head?.map (packAnn s.params)

/-- An event is accepted: `ev_valid = 1` and `ev_ready = 1` (R254). -/
def accepts (s : State) (i : PortIn) : Bool := i.evValid && evReady s i

/-- A record leaves: `ann_valid = 1` and `ann_ready = 1` (R254). -/
def takes (s : State) (i : PortIn) : Bool := annValid s i && i.annReady

/-! ## A cycle -/

/-- The reset values into every register and the buffer emptied: its records are lost (R250, R251). The
unspecified `frame_start_ts` is a free value (R35, log 5). -/
def applyReset (s : State) : State :=
  { s with
    frame := FrameState.reset (Config.freeFrameStart s.draws % 2 ^ s.params.tsWidth)
    outBuf := []
    draws := s.draws + 1 }

/-- What a decoder error is refused as (R76). -/
def refusalOf : DecodeError → Refusal
  | .bitCountAboveMaxBits => .bitCountAboveMaxBits

/-- The whole step of an accepted event record: decoded, then executed (R13, R254). A record or a range that a model
refuses is refused here, where it is accepted, and nowhere else (log 11). -/
def acceptEvent (w : Nat) (s : State) : Result :=
  match decode s.params (.evt w) with
  | .ok i => exec i s
  | .error e => .refused (refusalOf e)

/-- The oldest record leaves the block for the sink (R254). -/
def takeRecord (s : State) : State :=
  match s.outBuf with
  | [] => s
  | r :: rs => { s with outBuf := rs, delivered := s.delivered ++ [r] }

/-- The input pins at a sample: the configuration level is the sample's, and the stream moves on. -/
def loadPins (i : PortIn) (rest : List PortIn) (s : State) : State :=
  { s with rangeSel := i.rangeSel, inputs := rest }

/-- One clock cycle with the sample `i` (R250 to R255): reset wins over everything; an accepted event takes its
whole step; a record taken leaves; otherwise the state is held (R231). -/
def cycleWith (i : PortIn) (s : State) : Result :=
  if i.rst then .next (applyReset s)
  else if accepts s i then acceptEvent i.ev s
  else if takes s i then .next (takeRecord s)
  else .next s

/-- One clock cycle. With no sample left nothing is offered, and the block holds its state (R231, log 9). -/
def cycle (s : State) : Result :=
  match s.inputs with
  | [] => .next s
  | i :: rest => cycleWith i (loadPins i rest s)

/-! ## The transaction level -/

/-- Every buffered record handed to the sink at once (R39). -/
def drain (s : State) : State := { s with outBuf := [], delivered := s.delivered ++ s.outBuf }

/-- `Step(state, event, range_sel) -> (state', records)` (R13): the event's records stand at the end of
`delivered`, and the buffer is empty before and after (R39). -/
def transact (r : RangeSel) (w : Nat) (s : State) : Result :=
  andThen (acceptEvent w { s with rangeSel := r }) fun t => .next (drain t)

/-- A run of events at the transaction level, each with its own sample of `RANGE_SEL` (R57, R139). -/
def transactAll : List (RangeSel × Nat) → State → Result
  | [], s => .next s
  | (r, w) :: es, s => andThen (transact r w s) (transactAll es)

/-! ## Placing an instruction where the next step takes it -/

/-- The sample that offers the event record `w`, with the given range. -/
def offer (r : RangeSel) (w : Nat) : PortIn :=
  { rst := false, evValid := true, ev := w, annReady := false, rangeSel := r }

/-- The event `w` offered at the next rising edge, with the buffer empty so that it is accepted (R255). -/
def placeEvent (w : Nat) (s : State) : State :=
  { s with outBuf := [], inputs := offer s.rangeSel w :: s.inputs }

/-- The `CS_RISE` record whose every other field is 0. -/
def riseWord (p : Config.Params) : Nat := packEvt p (csHdr 0b00#2 true) (evtBody p 0)

/-- A legal range: the given one, or the default range for the reserved code (R30). -/
def legalRange (r : RangeSel) : RangeSel := if (rangeMillivolts r).isSome then r else 0

/-- The control word `raw` in `acc_tx[16:1]` of an open frame that carries tx bits alone, and the rising edge
that decodes it offered next (R137, R138, log 10). -/
def placeControlWord (raw : Raw) (s : State) : State :=
  { s with
    frame := { s.frame with
      accTx := raw ++ 0#1
      frameStartValid := true
      bitWidthValid := true
      rxPresent := false
      txPresent := true }
    outBuf := []
    inputs := offer (legalRange s.rangeSel) (riseWord s.params) :: s.inputs }

/-- Place a word where the next step takes it. -/
def placeWord : EncodedWord → State → State
  | .evt w, s => placeEvent w s
  | .ctlw raw, s => placeControlWord raw s

end Sys2Proof.Machine
end

