-- ==== Sys2Proof/Machine/Step.lean ====
section
/-!
DEFINITION. One step of the machine, a clock cycle at the ports (R254), and the placing of an instruction
where the next step takes it.
-/

namespace Sys2Proof.Machine

/-- One step: the cycle of the next rising edge (log 2). -/
def step (s : State) : Host.Outcome State Fault Refusal := cycle s

/-- `s` with the table word `w` of `nbits` bits placed so that the next step runs it (log 10). -/
def State.withFetchWord (s : State) (nbits w : Nat) : State := placeWord (tableWord nbits w) s

end Sys2Proof.Machine
end

