-- ==== Sys2Proof/Machine/Trace.lean ====
section
/-!
DEFINITION. The trace syntax in which the spec writes event programs (R83) and its pseudo-events (R84): one
line a term, its expansion into event records, and a reader of a line's text. A line that names a value
no record can carry is read as none, and so are the two forms of a bit list that log 14 names.
-/

namespace Sys2Proof.Machine

/-- A bit list: its bit count and the value of its vector, element `s[k]` in bit `k` (R83). -/
structure TraceBits where
  len : Len
  vec : Vec
deriving DecidableEq, Repr

/-- A line of a trace (R83) or a pseudo-event (R84). -/
inductive TraceLine where
  /-- `BITS <start_ts> <end_ts> rx=<bits> tx=<bits>` -/
  | bits (startTs endTs : Nat) (rx tx : TraceBits)
  /-- `CS <start_ts> <end_ts> <old> <new>`, the old level none for `null` -/
  | cs (startTs endTs : Nat) (old : Option Bool) (new : Bool)
  /-- `.range`, which sets `RANGE_SEL` for later events -/
  | range (r : RangeSel)
  /-- `CS_FIRST t new` -/
  | csFirst (t : Nat) (new : Bool)
  /-- `CS_FALL t` -/
  | csFall (t : Nat)
  /-- `CS_RISE t` -/
  | csRise (t : Nat)
  /-- `FRAME s e rx=<bits> tx=<bits>` -/
  | frame (startTs endTs : Nat) (rx tx : TraceBits)
deriving DecidableEq, Repr

/-- The event of a `BITS` line (R83), its ignored header bits 0 (R74). -/
def traceBitsEvent (startTs endTs : Nat) (rx tx : TraceBits) : Instr :=
  .bits 0 { startTs := startTs, endTs := endTs, rxLen := rx.len, rxVec := rx.vec, txLen := tx.len, txVec := tx.vec }

/-- The event of a `CS` line (R72, R83), its ignored bit lists 0 (R70). -/
def traceCsEvent (startTs endTs : Nat) (old : Option Bool) (new : Bool) : Instr :=
  let ev : EvtBody := { startTs := startTs, endTs := endTs, rxLen := 0, rxVec := 0, txLen := 0, txVec := 0 }
  match old, new with
  | some false, true => .csRise ev
  | some false, false => .csStayLow ev
  | some true, true => .csStayHigh ev
  | some true, false => .csFall ev
  | none, new => .csFirst new ev

/-- The events a line stands for, in order: none for the directive, three for `FRAME` (R84). -/
def traceEvents : TraceLine → List Instr
  | .bits s e rx tx => [traceBitsEvent s e rx tx]
  | .cs s e old new => [traceCsEvent s e old new]
  | .range _ => []
  | .csFirst t new => [traceCsEvent t t none new]
  | .csFall t => [traceCsEvent t t (some true) false]
  | .csRise t => [traceCsEvent t t (some false) true]
  | .frame s e rx tx =>
    [traceCsEvent s s (some true) false, traceBitsEvent s e rx tx, traceCsEvent e e (some false) true]

/-- The range in force after a line (R83). -/
def traceRange (r : RangeSel) : TraceLine → RangeSel
  | .range r' => r'
  | _ => r

/-- An event's record; a control word is no event. -/
def eventWord : EncodedWord → List Nat
  | .evt w => [w]
  | .ctlw _ => []

/-- The records of a trace's events in a block with the given parameters, each with the range in force (R83). -/
def traceRecords (p : Config.Params) : RangeSel → List TraceLine → List (RangeSel × Nat)
  | _, [] => []
  | r, l :: ls =>
    ((traceEvents l).flatMap fun i => (eventWord (encode p i)).map fun w => (r, w)) ++
      traceRecords p (traceRange r l) ls

/-! ## Reading a line -/

/-- The line up to a comment sign. -/
def dropComment (cs : List Char) : List Char := cs.takeWhile fun c => c != ';'

/-- The words of a line, split at spaces; `word` is the word being read, reversed. -/
def splitWords : (word : List Char) → List Char → List (List Char)
  | [], [] => []
  | w, [] => [w.reverse]
  | w, c :: cs =>
    if c = ' ' then (if w.isEmpty then splitWords [] cs else w.reverse :: splitWords [] cs)
    else splitWords (c :: w) cs

/-- The value of a digit of a base up to 16, none for another character. -/
def digitValue (base : Nat) (c : Char) : Option Nat :=
  let v :=
    if '0' ≤ c ∧ c ≤ '9' then c.toNat - '0'.toNat
    else if 'a' ≤ c ∧ c ≤ 'f' then c.toNat - 'a'.toNat + 10
    else if 'A' ≤ c ∧ c ≤ 'F' then c.toNat - 'A'.toNat + 10
    else base
  if v < base then some v else none

/-- Digits read from the left onto the value so far. -/
def digitsFrom (base : Nat) : (acc : Nat) → List Char → Option Nat
  | acc, [] => some acc
  | acc, c :: cs =>
    match digitValue base c with
    | some v => digitsFrom base (base * acc + v) cs
    | none => none

/-- A numeral of a base, at least one digit long and below a bound. -/
def readNumber (base bound : Nat) (cs : List Char) : Option Nat :=
  if cs.isEmpty then none
  else match digitsFrom base 0 cs with
    | some v => if v < bound then some v else none
    | none => none

/-- A decimal timestamp (R83), of `TS_WIDTH` bits (R5). -/
def readTs (p : Config.Params) (cs : List Char) : Option Nat := readNumber 10 (2 ^ p.tsWidth) cs

/-- The digits of a bit list after its apostrophe: `b` and binary digits, or `h` and hexadecimal ones (R83). DESIGN
CHOICE (log 14): a value with bits at or above the count `n`, which R83 leaves open, is read as none. -/
def readVec (n : Nat) : List Char → Option Nat
  | 'b' :: ds => readNumber 2 (2 ^ n) ds
  | 'h' :: ds => readNumber 16 (2 ^ n) ds
  | _ => none

/-- `<bits>`: `-`, or a bit count, an apostrophe and the digits (R83). DESIGN CHOICE (log 14): a count above
`MAX_BITS`, a reserved encoding (R76), is read as none. -/
def readBits (p : Config.Params) (cs : List Char) : Option TraceBits :=
  if cs = ['-'] then some { len := 0, vec := 0 }
  else
    match readNumber 10 (p.maxBits + 1) (cs.takeWhile fun c => c != '\'') with
    | none => none
    | some n =>
      (readVec n ((cs.dropWhile fun c => c != '\'').drop 1)).map fun v =>
        { len := BitVec.ofNat 6 n, vec := BitVec.ofNat 32 v }

/-- `rx=<bits>` or `tx=<bits>`, by its first letter. -/
def readDirection (p : Config.Params) (d : Char) : List Char → Option TraceBits
  | c :: 'x' :: '=' :: cs => if c = d then readBits p cs else none
  | _ => none

/-- `<new>`: 0 or 1 (R83). -/
def readLevel : List Char → Option Bool
  | ['0'] => some false
  | ['1'] => some true
  | _ => none

/-- `<old>`: 0, 1 or `null` (R83). -/
def readOldLevel (cs : List Char) : Option (Option Bool) :=
  if cs = "null".toList then some none else (readLevel cs).map some

/-- The range a `.range` directive names (R30, R83). -/
def readRange (cs : List Char) : Option RangeSel :=
  if cs = "5.0".toList then some 0b00#2
  else if cs = "2.5".toList then some 0b01#2
  else if cs = "10.0".toList then some 0b10#2
  else none

/-- The line of a keyword and its arguments. -/
def readWords (p : Config.Params) (kw : String) (args : List (List Char)) : Option TraceLine :=
  match kw, args with
  | "BITS", [s, e, rx, tx] => do
    some (.bits (← readTs p s) (← readTs p e) (← readDirection p 'r' rx) (← readDirection p 't' tx))
  | "CS", [s, e, old, new] => do
    some (.cs (← readTs p s) (← readTs p e) (← readOldLevel old) (← readLevel new))
  | ".range", [r] => do some (.range (← readRange r))
  | "CS_FIRST", [t, new] => do some (.csFirst (← readTs p t) (← readLevel new))
  | "CS_FALL", [t] => do some (.csFall (← readTs p t))
  | "CS_RISE", [t] => do some (.csRise (← readTs p t))
  | "FRAME", [s, e, rx, tx] => do
    some (.frame (← readTs p s) (← readTs p e) (← readDirection p 'r' rx) (← readDirection p 't' tx))
  | _, _ => none

/-- Read one line of a trace for a block with the given parameters (R83, R84). -/
def readLine (p : Config.Params) (line : String) : Option TraceLine :=
  match splitWords [] (dropComment line.toList) with
  | [] => none
  | kw :: args => readWords p (String.ofList kw) args

end Sys2Proof.Machine
end

