-- ==== Sys2Proof/Safety.lean ====
section
/-!
DEFINITION. The terms in which claims about PVD-CORE are stated: the invariants the spec derives (R33, R34,
R36, R39, R109), the upstream layer's contract (R253, R257), runs of events, and the output of a control
decode written from the arithmetic of 43_control_decoder.md alone.
-/

namespace Sys2Proof.Machine

/-! ## Invariants -/

/-- What holds of the FrameState in every reachable state of a block with the given parameters (R5, R33, R34,
R109). -/
structure FrameInv (p : Config.Params) (f : FrameState) : Prop where
  /-- A present direction belongs to an open frame (R34). -/
  present_open : f.rxPresent = true ∨ f.txPresent = true → f.frameStartValid = true
  /-- A present tx direction has its bit width (R34). -/
  tx_width : f.txPresent = true → f.bitWidthValid = true
  /-- In IDLE both accumulators are 0 (R33). -/
  idle_zero : f.frameStartValid = false → f.accRx = 0 ∧ f.accTx = 0
  /-- Bit 0 of `acc_rx` is 0 (R109). -/
  rx_low : f.accRx.getLsbD 0 = false
  /-- Bit 0 of `acc_tx` is 0 (R109). -/
  tx_low : f.accTx.getLsbD 0 = false
  /-- `frame_start_ts` is of `TS_WIDTH` bits (R5, R20). -/
  start_ts : p.isTs f.frameStartTs = true
  /-- `frame_end_ts` is of `TS_WIDTH` bits (R5, R20). -/
  end_ts : p.isTs f.frameEndTs = true
  /-- `bit_width_ts` is of `TS_WIDTH` bits (R5, R20). -/
  width_ts : p.isTs f.bitWidthTs = true

/-- A record as R36 to R38 have it: its timestamps are of `TS_WIDTH` bits, its class is its kind's, and its text is
the one a sink renders from `kind`, `aux` and `value`. -/
def RecordOk (p : Config.Params) (r : Annotation) : Prop :=
  p.isTs r.startTs = true ∧ p.isTs r.endTs = true ∧ r.classId = kindClass r.kind ∧
    renderText r.kind r.aux r.value = some r.text

/-- The machine's invariant: legal parameters (R8), the FrameState's invariant, the bound on the output buffer (R39),
and well-formed records. -/
structure Inv (s : State) : Prop where
  params : s.params.legal = true
  frame : FrameInv s.params s.frame
  buffer : s.outBuf.length ≤ Config.maxAnn
  buffered : ∀ r ∈ s.outBuf, RecordOk s.params r
  delivered : ∀ r ∈ s.delivered, RecordOk s.params r

/-! ## The upstream layer's contract -/

/-- An event the spec gives a meaning while `RANGE_SEL` is at `r`: no reserved encoding (R73, R76), and a legal
range at a rising edge (R139). It is a premise of claims, and no step enforces it (log 13). -/
def legalEvent (p : Config.Params) (r : RangeSel) (w : Nat) : Bool :=
  match decode p (.evt w) with
  | .error _ => false
  | .ok (.csRsvd _ _) => false
  | .ok (.csRise _) => (rangeMillivolts r).isSome
  | .ok _ => true

/-- A sample that offers no event, or a legal one, or that resets the block (R251). -/
def legalInput (p : Config.Params) (i : PortIn) : Bool := i.rst || !i.evValid || legalEvent p i.rangeSel i.ev

/-- The boot order of R253: at least one sample with `rst` high and no event offered, then only samples with
`rst` low that offer legal events. -/
def BootSequence (p : Config.Params) (resets rest : List PortIn) : Prop :=
  resets ≠ [] ∧ (∀ i ∈ resets, i.rst = true ∧ i.evValid = false) ∧
    ∀ i ∈ rest, i.rst = false ∧ legalInput p i = true

/-- A frame is open and its control spans are exact (R34, R181). -/
def controlSpansExact (s : State) : Prop :=
  s.frame.frameStartValid = true ∧ spanExact s.params s.frame.frameStartTs s.frame.bitWidthTs = true

/-- The value hazards of R257 are avoided by this instruction in this state: a BITS event is not reversed
(R106), and the spans a control decode computes are exact (R181). A control decode runs in an open frame (R34),
and so does one executed by itself. -/
def hazardFree (s : State) : Instr → Prop
  | .bits _ ev => ev.startTs ≤ ev.endTs
  | .csRise _ => s.frame.txPresent = true → spanExact s.params s.frame.frameStartTs s.frame.bitWidthTs = true
  | .csFall _ => True
  | .csStayLow _ => True
  | .csStayHigh _ => True
  | .csFirst _ _ => True
  | .csRsvd _ _ => True
  | .ctlNone01 _ _ _ _ => True
  | .ctlNone2 _ _ _ => True
  | .ctlChsel _ _ _ _ => controlSpansExact s
  | .ctlRangeALo _ _ _ => controlSpansExact s
  | .ctlRangeAHi _ _ _ => controlSpansExact s
  | .ctlRangeBLo _ _ _ => controlSpansExact s
  | .ctlRangeBHi _ _ _ => controlSpansExact s
  | .ctlNone815 _ _ _ _ => True
  | .ctlNone1631 _ _ _ _ => True
  | .ctlNone3263 _ _ _ _ => True

/-! ## Runs -/

/-- `n` steps, stopping at the first that is refused: `Host.Core.run` of the machine, over `State` itself
(`runSteps_eq_run`). -/
def runSteps : Nat → State → Result
  | 0, s => .next s
  | n + 1, s => andThen (step s) (runSteps n)

/-- Several instructions one after the other. -/
def execAll : List Instr → State → Result
  | [], s => .next s
  | i :: is, s => andThen (exec i s) (execAll is)

/-- The BITS events of a list of bodies. -/
def bitsEvents (evs : List EvtBody) : List Instr := evs.map (Instr.bits 0)

/-! ## What a control decode outputs, from the arithmetic of its rules -/

/-- The span `(fs + w*a, fs + w*b)` of a record (R181), with the fields of R36. -/
def exactRecord (fs w : Nat) (a b : Nat) (kind : AnnKind) (aux value : Nat) (text : String) : Annotation :=
  { startTs := fs + w * a
    endTs := fs + w * b
    classId := .control
    kind := kind
    aux := BitVec.ofNat 2 aux
    value := BitVec.ofNat 16 value
    text := text }

/-- The records of a control word (R182 to R193), where the spans are exact (R181). -/
def controlOutput (fs w : Nat) (raw : Nat) : List Annotation :=
  let reg := raw / 512 % 64
  if reg = 3 then
    [exactRecord fs w 0 8 .regId 0 3 "03",
     exactRecord fs w 8 12 .chb 0 (raw / 16 % 16) (hex2 (BitVec.ofNat 8 (raw / 16 % 16))),
     exactRecord fs w 12 16 .cha 0 (raw % 16) (hex2 (BitVec.ofNat 8 (raw % 16)))]
  else if 4 ≤ reg ∧ reg ≤ 7 then
    [exactRecord fs w 0 8 .rangeLabel 0 (reg - 4) (rangeLabel (BitVec.ofNat 2 (reg - 4))),
     exactRecord fs w 8 10 .quadRange 0 (raw / 64 % 4) (rangeDisplay (BitVec.ofNat 2 (raw / 64 % 4))),
     exactRecord fs w 10 12 .quadRange 1 (raw / 16 % 4) (rangeDisplay (BitVec.ofNat 2 (raw / 16 % 4))),
     exactRecord fs w 12 14 .quadRange 2 (raw / 4 % 4) (rangeDisplay (BitVec.ofNat 2 (raw / 4 % 4))),
     exactRecord fs w 14 16 .quadRange 3 (raw % 4) (rangeDisplay (BitVec.ofNat 2 (raw % 4)))]
  else []

/-- The record of a voltage decode (R160 to R164). -/
def voltageOutput (fs fe : Nat) (raw rm : Nat) : Annotation :=
  { startTs := fs
    endTs := fe
    classId := .voltage
    kind := .volt
    aux := 0
    value := BitVec.ofNat 16 ((2 * raw * rm + 32767) / 65534)
    text := voltText ((2 * raw * rm + 32767) / 65534) }

/-- A record without its timestamps. -/
def content (r : Annotation) : AnnClass × AnnKind × BitVec 2 × BitVec 16 × String :=
  (r.classId, r.kind, r.aux, r.value, r.text)

/-! ## The rows of the control-word map -/

/-- The mask and match of each `CTLW` row, in the order of R80. -/
def ctlwTable : List (Raw × Raw) :=
  [(0x7C00#16, 0x0000#16), (0x7E00#16, 0x0400#16), (0x7E00#16, 0x0600#16), (0x7E00#16, 0x0800#16),
   (0x7E00#16, 0x0A00#16), (0x7E00#16, 0x0C00#16), (0x7E00#16, 0x0E00#16), (0x7000#16, 0x1000#16),
   (0x6000#16, 0x2000#16), (0x4000#16, 0x4000#16)]

/-- The place of an instruction's row in `ctlwTable`, none for an event. -/
def ctlwRow : Instr → Option Nat
  | .ctlNone01 _ _ _ _ => some 0
  | .ctlNone2 _ _ _ => some 1
  | .ctlChsel _ _ _ _ => some 2
  | .ctlRangeALo _ _ _ => some 3
  | .ctlRangeAHi _ _ _ => some 4
  | .ctlRangeBLo _ _ _ => some 5
  | .ctlRangeBHi _ _ _ => some 6
  | .ctlNone815 _ _ _ _ => some 7
  | .ctlNone1631 _ _ _ _ => some 8
  | .ctlNone3263 _ _ _ _ => some 9
  | .bits _ _ => none
  | .csRise _ => none
  | .csFall _ => none
  | .csStayLow _ => none
  | .csStayHigh _ => none
  | .csFirst _ _ => none
  | .csRsvd _ _ => none

/-! ## Events at the ports -/

/-- The events accepted in `n` steps, each with the range sampled in its cycle (R254). -/
def acceptedIn : Nat → State → List (RangeSel × Nat)
  | 0, _ => []
  | n + 1, s =>
    (match s.inputs with
      | [] => []
      | i :: _ => if accepts s i then [(i.rangeSel, i.ev)] else []) ++
    (match step s with
      | .next t => acceptedIn n t
      | .fault _ => []
      | .refused _ => [])

/-- The block as the transaction level sees it: every buffered record already at the sink (R39), the input
pins left out. -/
def blockView (s : State) : State := { drain s with inputs := [], rangeSel := 0 }

end Sys2Proof.Machine
end

