-- ==== Sys2Proof/Certificates/Slice0/Obligations.lean ====
section
/-!
DEFINITION. The statements for the provers, from the numbered rules of spec/.
-/

open Sys2Proof Sys2Proof.Machine

/-! ## Encodings (30_encoding.md) -/

/-- In a block with any parameters, every well-formed instruction is read back from its own word, with every operand
(R5, R8, R71, R77 to R80). -/
def Obligations.DecodeEncodeRoundTrip : Prop :=
  ∀ (p : Config.Params) (i : Instr), i.wellFormed p = true → decode p (encode p i) = .ok i

/-- In a block with any legal parameters, every word that decodes is the word of what it decodes to, so no bit of a
record or of a control word is dropped (R8, R71, R77 to R80). -/
def Obligations.EncodeDecodeRoundTrip : Prop :=
  ∀ (p : Config.Params) (w : EncodedWord) (i : Instr), p.legal = true → (∀ v, w = .evt v → v < 2 ^ evtBits p) →
    decode p w = .ok i → i.wellFormed p = true ∧ encode p i = w

/-- The decoder rejects exactly the BITS records with a length field above `MAX_BITS` (R76; that a CS_CHANGE
event's lengths are ignored is R70 and R130, log 6), the lengths at the general positions of R77. -/
def Obligations.DecodeRejectsExactlyLongBits : Prop :=
  ∀ (p : Config.Params) (w : Nat), decode p (.evt w) = .error .bitCountAboveMaxBits ↔
    w % 2 = 0 ∧
      (p.maxBits < w / 2 ^ (2 * p.tsWidth + 4) % 64 ∨ p.maxBits < w / 2 ^ (2 * p.tsWidth + p.maxBits + 10) % 64)

/-- The header alone selects the class of a record, by the masks and matches of R71. -/
def Obligations.HeaderSelectsClass : Prop :=
  ∀ (p : Config.Params) (w : Nat),
    let h := BitVec.ofNat 4 w
    (h &&& 0b0001#4 = 0b0000#4 → (evtBody p w).lengthsLegal p = true →
      decode p (.evt w) = .ok (.bits (h.extractLsb' 1 3) (evtBody p w))) ∧
    (h &&& 0b1111#4 = 0b1001#4 → decode p (.evt w) = .ok (.csRise (evtBody p w))) ∧
    (h &&& 0b1111#4 = 0b0011#4 → decode p (.evt w) = .ok (.csFall (evtBody p w))) ∧
    (h &&& 0b1111#4 = 0b0001#4 → decode p (.evt w) = .ok (.csStayLow (evtBody p w))) ∧
    (h &&& 0b1111#4 = 0b1011#4 → decode p (.evt w) = .ok (.csStayHigh (evtBody p w))) ∧
    (h &&& 0b0111#4 = 0b0101#4 → decode p (.evt w) = .ok (.csFirst (h.getLsbD 3) (evtBody p w))) ∧
    (h &&& 0b0111#4 = 0b0111#4 → decode p (.evt w) = .ok (.csRsvd (h.getLsbD 3) (evtBody p w)))

/-- The ten rows of R80 cover every control word exactly once, and a word decodes to the row whose mask and
match it meets. -/
def Obligations.ControlRowsPartitionWords : Prop :=
  ∀ raw : Raw, (∃ k, k < 10 ∧ ctlwRow (decodeCtlw raw) = some k) ∧
    ∀ (k : Nat) (mask pattern : Raw), ctlwTable[k]? = some (mask, pattern) →
      (raw &&& mask = pattern ↔ ctlwRow (decodeCtlw raw) = some k)

/-- A few words of 95_test_vectors.md decode to the instructions they stand for: four events of program P1, a control
word of each register-address class that emits, and one of `CTL_NONE_8_15`. That a row of 16 bits is read as a
control word, and one of any other length as an event, is the model's choice (log 12). -/
def Obligations.SpecWordsDecode : Prop :=
  decodeTableWord 8 0xD = some (.csFirst true ⟨0, 0, 0, 0, 0, 0⟩) ∧
  decodeTableWord 176 0x0000000000000000000000003df00000000000003de3 = some (.csFall ⟨990, 991, 0, 0, 0, 0⟩) ∧
  decodeTableWord 176 0x06a54100010000000000000048800000000000003e80 =
    some (.bits 0 ⟨1000, 1160, 16, 0x4000, 16, 0x06a5⟩) ∧
  decodeTableWord 176 0x00000000000000000000000048900000000000004889 = some (.csRise ⟨1160, 1161, 0, 0, 0, 0⟩) ∧
  decodeTableWord 16 0x06A5 = some (.ctlChsel false false 0xA 0x5) ∧
  decodeTableWord 16 0x081B = some (.ctlRangeALo false false ⟨0, 1, 2, 3⟩) ∧
  decodeTableWord 16 0x0AFF = some (.ctlRangeAHi false false ⟨3, 3, 3, 3⟩) ∧
  decodeTableWord 16 0x0C55 = some (.ctlRangeBLo false false ⟨1, 1, 1, 1⟩) ∧
  decodeTableWord 16 0x8FAA = some (.ctlRangeBHi true true ⟨2, 2, 2, 2⟩) ∧
  decodeTableWord 16 0x1400 = some (.ctlNone815 false 2 false 0)

/-- The fields of the packed output record stand where R82 puts them, at every `TS_WIDTH` and so at 64, the class and
the kind by their codes (R37, R38). -/
def Obligations.OutputRecordFields : Prop :=
  classCode .voltage = 0 ∧ classCode .control = 1 ∧
  kindCode .volt = 0 ∧ kindCode .regId = 1 ∧ kindCode .chb = 2 ∧ kindCode .cha = 3 ∧
  kindCode .rangeLabel = 4 ∧ kindCode .quadRange = 5 ∧
  ∀ (p : Config.Params) (r : Annotation), r.startTs < 2 ^ p.tsWidth → r.endTs < 2 ^ p.tsWidth →
    packAnn p r < 2 ^ (2 * p.tsWidth + 22) ∧
    packAnn p r % 2 ^ p.tsWidth = r.startTs ∧ packAnn p r / 2 ^ p.tsWidth % 2 ^ p.tsWidth = r.endTs ∧
    packAnn p r / 2 ^ (2 * p.tsWidth) % 2 = (classCode r.classId).toNat ∧
    packAnn p r / 2 ^ (2 * p.tsWidth + 1) % 8 = (kindCode r.kind).toNat ∧
    packAnn p r / 2 ^ (2 * p.tsWidth + 4) % 4 = r.aux.toNat ∧
    packAnn p r / 2 ^ (2 * p.tsWidth + 6) % 2 ^ 16 = r.value.toNat

/-- The pseudo-events expand to the events R84 shows. -/
def Obligations.PseudoEventsExpand : Prop :=
  ∀ (t s e : Nat) (new : Bool) (rx tx : TraceBits),
    traceEvents (.csFirst t new) = traceEvents (.cs t t none new) ∧
    traceEvents (.csFall t) = traceEvents (.cs t t (some true) false) ∧
    traceEvents (.csRise t) = traceEvents (.cs t t (some false) true) ∧
    traceEvents (.frame s e rx tx) =
      traceEvents (.csFall s) ++ traceEvents (.bits s e rx tx) ++ traceEvents (.csRise e)

/-! ## The ports (70_reset_and_hazards.md) -/

/-- A step runs the decoded instruction: with `rst` low, the buffer empty and a well-formed event offered, the
step is `exec` of what the record decodes to, with the sample's range and the stream moved on (R13, R254). -/
def Obligations.StepRunsDecodedEvent : Prop :=
  ∀ (s : State) (i : PortIn) (rest : List PortIn) (ins : Instr),
    s.inputs = i :: rest → i.rst = false → i.evValid = true → s.outBuf = [] → decode s.params (.evt i.ev) = .ok ins →
    step s = exec ins { s with rangeSel := i.rangeSel, inputs := rest }

/-- A record with a reserved bit count is refused when it is accepted (R76). -/
def Obligations.StepRefusesLongBits : Prop :=
  ∀ (s : State) (i : PortIn) (rest : List PortIn),
    s.inputs = i :: rest → i.rst = false → i.evValid = true → s.outBuf = [] → i.ev % 2 = 0 →
    (s.params.maxBits < i.ev / 2 ^ (2 * s.params.tsWidth + 4) % 64 ∨
      s.params.maxBits < i.ev / 2 ^ (2 * s.params.tsWidth + s.params.maxBits + 10) % 64) →
    step s = .refused .bitCountAboveMaxBits

/-- The rising edge of a frame with tx bits runs the instruction its control word decodes to, after the voltage
decode and before the finalize reset (R80, R137, R183). -/
def Obligations.RisingEdgeRunsControlWord : Prop :=
  ∀ (ev : EvtBody) (s : State) (rm : Nat), rangeMillivolts s.rangeSel = some rm → s.frame.txPresent = true →
    exec (.csRise ev) s =
      andThen (exec (decodeCtlw (s.frame.accTx.extractLsb' 1 16))
          (if s.frame.rxPresent then emit [voltageRecord rm s] s else s))
        fun t => .next (finalizeReset t)

/-- A reset cycle loads the reset values of R35 and empties the buffer, whatever else is offered (R250).
The value `frame_start_ts` takes is unspecified (log 5). -/
def Obligations.ResetCycleWins : Prop :=
  ∀ (s : State) (i : PortIn) (rest : List PortIn), s.inputs = i :: rest → i.rst = true →
    evReady s i = false ∧ annValid s i = false ∧
    ∃ t v, step s = .next t ∧ t.outBuf = [] ∧ t.inputs = rest ∧
      t.frame = { accRx := 0, accTx := 0, frameStartValid := false, frameStartTs := v, frameEndTs := 0
                  bitWidthValid := false, bitWidthTs := 0, rxPresent := false, txPresent := false }

/-- `ev_ready = 1` exactly when `rst = 0` and the output buffer is empty, so no event is accepted while a record is
buffered; `ann_valid = 1` exactly when `rst = 0` and the buffer holds a record; and an accepted event that emits
nothing leaves the buffer empty, so `ev_ready` stays 1 (R255). -/
def Obligations.HandshakeOutputs : Prop :=
  ∀ (s : State) (i : PortIn),
    (evReady s i = true ↔ i.rst = false ∧ s.outBuf = []) ∧
    (annValid s i = true ↔ i.rst = false ∧ s.outBuf ≠ []) ∧
    (accepts s i = true → s.outBuf = []) ∧
    ∀ (t : State) (j : PortIn), accepts s i = true → acceptEvent i.ev s = .next t → t.outBuf = s.outBuf →
      j.rst = false → t.outBuf = [] ∧ evReady t j = true

/-- While a record is buffered no event is accepted, and the port shows the oldest record: the cycle hands it to a
ready sink and holds everything else; for a sink that is not ready it holds the buffer too, so that the port still
shows that record (R254 to R256). The list `delivered` is the model's own (log 7). -/
def Obligations.BufferedRecordBlocksEvents : Prop :=
  ∀ (s : State) (i : PortIn) (rest : List PortIn) (r : Annotation) (rs : List Annotation),
    s.inputs = i :: rest → i.rst = false → s.outBuf = r :: rs →
    annValid s i = true ∧ annPort s = some (packAnn s.params r) ∧ accepts s i = false ∧
    step s = .next (if i.annReady
      then { s with rangeSel := i.rangeSel, inputs := rest, outBuf := rs, delivered := s.delivered ++ [r] }
      else { s with rangeSel := i.rangeSel, inputs := rest }) ∧
    ∀ t, i.annReady = false → step s = .next t → annPort t = some (packAnn s.params r)

/-- Between events the block holds its state: with nothing offered and nothing buffered only the input pins
move (R231). That a machine with no sample left stands still is the model's choice (log 9). -/
def Obligations.IdleHoldsState : Prop :=
  ∀ s : State,
    (s.inputs = [] → step s = .next s) ∧
    ∀ i rest, s.inputs = i :: rest → i.rst = false → i.evValid = false → s.outBuf = [] →
      step s = .next { s with rangeSel := i.rangeSel, inputs := rest }

/-- With a ready sink, an event offered behind `r` buffered records is accepted after exactly `r` cycles, when
every record has left in order (R255, R260). -/
def Obligations.EventAcceptedAfterDrain : Prop :=
  ∀ (s : State) (waiting rest : List PortIn) (i : PortIn) (ins : Instr),
    s.inputs = waiting ++ i :: rest → waiting.length = s.outBuf.length →
    (∀ j ∈ waiting, j.rst = false ∧ j.annReady = true) →
    i.rst = false → i.evValid = true → decode s.params (.evt i.ev) = .ok ins →
    runSteps (s.outBuf.length + 1) s =
      exec ins { s with outBuf := [], delivered := s.delivered ++ s.outBuf, rangeSel := i.rangeSel, inputs := rest }

/-- The port level refines the transaction level: without a reset, a run of cycles leaves the registers and has
produced the records, in order, that the accepted events give as atomic steps (R39, R56, R57, R254, R255). -/
def Obligations.PortsRefineTransactions : Prop :=
  ∀ (n : Nat) (s t : State), (∀ i ∈ s.inputs, i.rst = false) → runSteps n s = .next t →
    ∃ u, transactAll (acceptedIn n s) (blockView s) = .next u ∧ blockView u = blockView t

/-- Under the upstream layer's contract (no reserved encoding, a legal range at a rising edge) no run of the
block is ever refused, and none can fault (R220). -/
def Obligations.LegalInputsNeverRefused : Prop :=
  ∀ (n : Nat) (s : State), (∀ i ∈ s.inputs, legalInput s.params i = true) →
    ∃ t, runSteps n s = .next t

/-- From any state whatever, the boot order of R253 brings the block to its reset values, and the run goes on
for ever after. What the sink has taken stays taken (`delivered` is the model's own, log 7). -/
def Obligations.BootFromAnyState : Prop :=
  ∀ (s : State) (resets rest : List PortIn), s.inputs = resets ++ rest → BootSequence s.params resets rest →
    (∃ t v, runSteps resets.length s = .next t ∧ t.inputs = rest ∧ t.outBuf = [] ∧
      t.delivered = s.delivered ∧ t.frame = FrameState.reset v) ∧
    ∀ n, ∃ t, runSteps n s = .next t

/-- A control word placed for the next step is run by it, inside the rising edge that closes its frame (the
model's convention for a format that is not fetched, log 10). -/
def Obligations.PlacedControlWordRuns : Prop :=
  ∀ (s : State) (raw : Raw),
    step (s.withFetchWord 16 raw.toNat) =
      andThen (exec (decodeCtlw raw)
          (loadPins (offer (legalRange s.rangeSel) (riseWord s.params)) s.inputs (placeControlWord raw s)))
        fun t => .next (finalizeReset t)

/-! ## The BITS event (40_accumulator.md) -/

/-- A BITS event with legal lengths completes, and this is all it does: the presence flags, the frame start while
unset, the frame end, and for each direction that carries bits the accumulator in the closed form of R108 and
the bit width, tx last (R100 to R106, R108). A width derived from a reversed span is a free value of `TS_WIDTH` bits,
counted by the model's own field `draws` (log 3). -/
def Obligations.BitsCompletes : Prop :=
  ∀ (pad : BitVec 3) (ev : EvtBody) (s : State), ev.lengthsLegal s.params = true →
    let rn := ev.rxLen.toNat
    let tn := ev.txLen.toNat
    let rev := ev.endTs < ev.startTs
    let width : Nat → Nat := fun n =>
      if rev then Config.freeBitWidth s.draws % 2 ^ s.params.tsWidth else (ev.endTs - ev.startTs) / n
    exec (.bits pad ev) s = .next { s with
      draws := if rev ∧ (0 < rn ∨ 0 < tn) then s.draws + 1 else s.draws
      frame :=
        { accRx := if 0 < rn
            then BitVec.ofNat 17 ((s.frame.accRx.toNat <<< rn) ||| ((ev.rxVec.toNat % 2 ^ rn) <<< 1))
            else s.frame.accRx
          accTx := if 0 < tn
            then BitVec.ofNat 17 ((s.frame.accTx.toNat <<< tn) ||| ((ev.txVec.toNat % 2 ^ tn) <<< 1))
            else s.frame.accTx
          frameStartValid := true
          frameStartTs := if s.frame.frameStartValid then s.frame.frameStartTs else ev.startTs
          frameEndTs := ev.endTs
          bitWidthValid := s.frame.bitWidthValid || decide (0 < rn ∨ 0 < tn)
          bitWidthTs := if 0 < tn then width tn else if 0 < rn then width rn else s.frame.bitWidthTs
          rxPresent := decide (0 < rn)
          txPresent := decide (0 < tn) } }

/-- A BITS event with a bit count above `MAX_BITS` is refused with the reason the spec gives, whatever the state
(R76). -/
def Obligations.LongBitsRefused : Prop :=
  ∀ (pad : BitVec 3) (ev : EvtBody) (s : State),
    s.params.maxBits < ev.rxLen.toNat ∨ s.params.maxBits < ev.txLen.toNat →
    exec (.bits pad ev) s = .refused .bitCountAboveMaxBits ∧
    refusalText .bitCountAboveMaxBits = "bit count above MAX_BITS"

/-- The accumulation fold, element by element on numbers: from the last element of the list down to the first,
`a <- ((a | b) << 1) mod 2^17`, each direction on its own accumulator; an empty list leaves it unchanged; and
from an accumulator whose bit 0 is 0, bit 0 is 0 wherever the fold stands (R104). -/
def Obligations.AccumulationFold : Prop :=
  ∀ (pad : BitVec 3) (ev : EvtBody) (s : State), ev.lengthsLegal s.params = true →
    ∃ t, exec (.bits pad ev) s = .next t ∧
      t.frame.accRx.toNat =
        (rxSeq ev).foldr (fun b a => ((a ||| b.toNat) <<< 1) % 2 ^ 17) s.frame.accRx.toNat ∧
      t.frame.accTx.toNat =
        (txSeq ev).foldr (fun b a => ((a ||| b.toNat) <<< 1) % 2 ^ 17) s.frame.accTx.toNat ∧
      ∀ (a : Nat) (bs : List Bool), a % 2 = 0 → ∀ k,
        (bs.drop k).foldr (fun b a => ((a ||| b.toNat) <<< 1) % 2 ^ 17) a % 2 = 0

/-- The closed form of the fold, for one event and over a whole frame of events (R108). -/
def Obligations.FoldClosedForm : Prop :=
  (∀ (a : Acc) (len : Len) (vec : Vec),
    (foldBits a (bitSeq len vec)).toNat =
      ((a.toNat <<< len.toNat) ||| ((vec.toNat % 2 ^ len.toNat) <<< 1)) % 2 ^ 17 ∧
    (a.getLsbD 0 = false →
      (foldBits a (bitSeq len vec)).getLsbD 0 = false ∧
      (correctedRaw (foldBits a (bitSeq len vec))).toNat =
        (((correctedRaw a).toNat <<< len.toNat) ||| (vec.toNat % 2 ^ len.toNat)) % 2 ^ 16)) ∧
  ∀ (evs : List EvtBody) (s : State), (∀ ev ∈ evs, ev.lengthsLegal s.params = true) →
    s.frame.accRx = 0 → s.frame.accTx = 0 →
    ∃ t, execAll (bitsEvents evs) s = .next t ∧
      (correctedRaw t.frame.accRx).toNat =
        (evs.foldl (fun v ev => v * 2 ^ ev.rxLen.toNat + ev.rxVec.toNat % 2 ^ ev.rxLen.toNat) 0) % 2 ^ 16 ∧
      (correctedRaw t.frame.accTx).toNat =
        (evs.foldl (fun v ev => v * 2 ^ ev.txLen.toNat + ev.txVec.toNat % 2 ^ ev.txLen.toNat) 0) % 2 ^ 16

/-- After several BITS events of a frame each presence flag reflects only the last event (R101). -/
def Obligations.FlagsReflectLastEvent : Prop :=
  ∀ (evs : List EvtBody) (last : EvtBody) (s : State),
    (∀ ev ∈ evs, ev.lengthsLegal s.params = true) → last.lengthsLegal s.params = true →
    ∃ t, execAll (bitsEvents (evs ++ [last])) s = .next t ∧
      t.frame.rxPresent = decide (0 < last.rxLen.toNat) ∧ t.frame.txPresent = decide (0 < last.txLen.toNat)

/-- From IDLE, the frame start is the first event's start and the frame end the last event's end, whatever the
lists hold; an open frame's start is never overwritten (R102, R103). -/
def Obligations.FrameSpansItsEvents : Prop :=
  ∀ (first : EvtBody) (evs : List EvtBody) (s : State), (∀ ev ∈ first :: evs, ev.lengthsLegal s.params = true) →
    ∃ t, execAll (bitsEvents (first :: evs)) s = .next t ∧ t.frame.frameStartValid = true ∧
      t.frame.frameStartTs = (if s.frame.frameStartValid then s.frame.frameStartTs else first.startTs) ∧
      some t.frame.frameEndTs = ((first :: evs).getLast?).map EvtBody.endTs

/-- The bit width of an event that is not reversed: tx's where tx bits are carried, else rx's, else unchanged
(R105). -/
def Obligations.BitWidthOfLastDirection : Prop :=
  ∀ (pad : BitVec 3) (ev : EvtBody) (s : State), ev.lengthsLegal s.params = true → ev.startTs ≤ ev.endTs →
    ∃ t, exec (.bits pad ev) s = .next t ∧
      (0 < ev.txLen.toNat → t.frame.bitWidthValid = true ∧
        t.frame.bitWidthTs = (ev.endTs - ev.startTs) / ev.txLen.toNat) ∧
      (ev.txLen.toNat = 0 → 0 < ev.rxLen.toNat → t.frame.bitWidthValid = true ∧
        t.frame.bitWidthTs = (ev.endTs - ev.startTs) / ev.rxLen.toNat) ∧
      (ev.txLen.toNat = 0 → ev.rxLen.toNat = 0 →
        t.frame.bitWidthValid = s.frame.bitWidthValid ∧ t.frame.bitWidthTs = s.frame.bitWidthTs)

/-- A BITS event never emits a record, never reads `RANGE_SEL`, never changes `frame_start_ts` once it is set, and
leaves the block IN_FRAME (R107). -/
def Obligations.BitsNeverEmits : Prop :=
  ∀ (pad : BitVec 3) (ev : EvtBody) (s t : State), exec (.bits pad ev) s = .next t →
    t.outBuf = s.outBuf ∧ t.frame.frameStartValid = true ∧
    (s.frame.frameStartValid = true → t.frame.frameStartTs = s.frame.frameStartTs) ∧
    ∀ r, exec (.bits pad ev) { s with rangeSel := r } = .next { t with rangeSel := r }

/-- Two BITS records that differ only in `hdr[3:1]` and in vector bits at or above the lengths have the same
effect (R74, R75). -/
def Obligations.IgnoredBitsOfBits : Prop :=
  ∀ (w w' : Nat) (s : State), w % 2 = 0 → w' % 2 = 0 →
    let ev := evtBody s.params w
    let ev' := evtBody s.params w'
    ev.startTs = ev'.startTs → ev.endTs = ev'.endTs → ev.rxLen = ev'.rxLen → ev.txLen = ev'.txLen →
    (∀ k, k < ev.rxLen.toNat → ev.rxVec.getLsbD k = ev'.rxVec.getLsbD k) →
    (∀ k, k < ev.txLen.toNat → ev.txVec.getLsbD k = ev'.txVec.getLsbD k) →
    acceptEvent w s = acceptEvent w' s

/-- Sixteen bits carried by one event from a cleared accumulator are handed to the decoder as the number they
spell (R104, R138; 95_test_vectors.md L1-1). -/
def Obligations.SixteenBitsRoundTrip : Prop :=
  ∀ (pad : BitVec 3) (ev : EvtBody) (s : State), ev.lengthsLegal s.params = true → ev.rxLen = 16 → ev.txLen = 16 →
    s.frame.accRx = 0 → s.frame.accTx = 0 →
    ∃ t, exec (.bits pad ev) s = .next t ∧
      (correctedRaw t.frame.accRx).toNat = ev.rxVec.toNat % 2 ^ 16 ∧
      (correctedRaw t.frame.accTx).toNat = ev.txVec.toNat % 2 ^ 16

/-- A frame of fewer than 10 tx bits, in any number of events, is right-aligned, so its register address is 0 and its
decode emits nothing (R144, R193). -/
def Obligations.ShortFrameUnrecognized : Prop :=
  ∀ (evs : List (BitVec 3 × EvtBody)) (s : State), (∀ e ∈ evs, e.2.lengthsLegal s.params = true) →
    (evs.map fun e => e.2.txLen.toNat).sum < 10 → s.frame.accTx = 0 →
    ∃ t, execAll (evs.map fun e => .bits e.1 e.2) s = .next t ∧
      (correctedRaw t.frame.accTx).toNat =
        evs.foldl (fun v e => v * 2 ^ e.2.txLen.toNat + e.2.txVec.toNat % 2 ^ e.2.txLen.toNat) 0 ∧
      ctlReg (correctedRaw t.frame.accTx) = 0 ∧
      ∀ u : State, controlDecode (correctedRaw t.frame.accTx) u = .next u

/-! ## Chip select and finalize (41_cs_edge_finalizer.md) -/

/-- Every defined transition that is not the rising edge, that is `CS_FALL`, `CS_STAY_LOW`, `CS_STAY_HIGH` and
`CS_FIRST` of either level, completes and leaves the whole state as it was (R131, R133 to R136). -/
def Obligations.NonFiringIsNoOp : Prop :=
  ∀ (i : Instr) (old : Option Bool) (new : Bool) (s : State), csLevels i = some (old, new) →
    ¬ (old = some false ∧ new = true) → exec i s = .next s

/-- `CS_RSVD` is refused with the reason the spec gives, in every state, and so is every record with its header
(R73). -/
def Obligations.ReservedCsOldRefused : Prop :=
  ∀ s : State,
    (∀ (new : Bool) (ev : EvtBody), exec (.csRsvd new ev) s = .refused .reservedCsOld) ∧
    (∀ w : Nat, w % 2 = 1 → w / 2 % 4 = 0b11 →
      acceptEvent w s = .refused .reservedCsOld) ∧
    refusalText .reservedCsOld = "reserved cs_old encoding"

/-- The rising edge with a legal range completes. Its records are the voltage record where rx bits are present,
then the control decode's where tx bits are; the accumulators, the frame start and the flags are cleared, and
every other register keeps its value (R132, R137 to R140, R142, R143). That the content of `frame_start_ts` stays
once it is unset, and that a read of the unset register is free, is the model's (log 5). -/
def Obligations.RisingEdgeCompletes : Prop :=
  ∀ (ev : EvtBody) (s : State) (rm : Nat), rangeMillivolts s.rangeSel = some rm →
    (s.frame.txPresent = true → spanExact s.params (frameStart s) s.frame.bitWidthTs = true) →
    exec (.csRise ev) s = .next { s with
      frame := { s.frame with
        accRx := 0, accTx := 0, frameStartValid := false, rxPresent := false, txPresent := false }
      outBuf := s.outBuf ++
        (if s.frame.rxPresent then
          [voltageOutput (frameStart s) s.frame.frameEndTs (s.frame.accRx.toNat / 2 % 2 ^ 16) rm] else []) ++
        (if s.frame.txPresent then
          controlOutput (frameStart s) s.frame.bitWidthTs (s.frame.accTx.toNat / 2 % 2 ^ 16) else []) }

/-- The rising edge with a legal range completes even where the span arithmetic is not exact: the records already
buffered stay, the voltage record is the one of the exact case, and of the control records the timestamps alone
are unspecified (R164, R181, I-5). A read of the unset `frame_start_ts` is free, and its content stays (log 5). -/
def Obligations.RisingEdgeCompletesInexactSpans : Prop :=
  ∀ (ev : EvtBody) (s : State) (rm : Nat), rangeMillivolts s.rangeSel = some rm →
    s.frame.txPresent = true → spanExact s.params (frameStart s) s.frame.bitWidthTs = false →
    ∃ t rs, exec (.csRise ev) s = .next t ∧ t.frame = clearFrame s.frame ∧
      t.rangeSel = s.rangeSel ∧ t.inputs = s.inputs ∧ t.delivered = s.delivered ∧
      t.outBuf = s.outBuf ++
        (if s.frame.rxPresent then
          [voltageOutput (frameStart s) s.frame.frameEndTs (s.frame.accRx.toNat / 2 % 2 ^ 16) rm] else []) ++ rs ∧
      rs.map content = (controlOutput 0 0 (s.frame.accTx.toNat / 2 % 2 ^ 16)).map content

/-- A firing rising edge samples the range whether or not rx bits are present, and the reserved code is refused
(R139). -/
def Obligations.ReservedRangeRefused : Prop :=
  ∀ (ev : EvtBody) (s : State), s.rangeSel = 0b11#2 →
    exec (.csRise ev) s = .refused .reservedRangeSel ∧ refusalText .reservedRangeSel = "reserved RANGE_SEL"

/-- The range magnitudes of R31, and no magnitude for the reserved code (R30). -/
def Obligations.RangeMagnitudes : Prop :=
  rangeMillivolts 0b00#2 = some 5000 ∧ rangeMillivolts 0b01#2 = some 2500 ∧
  rangeMillivolts 0b10#2 = some 10000 ∧ rangeMillivolts 0b11#2 = none

/-- A CS_CHANGE record is read by its header alone: two records with the same header have the same effect
(R130). -/
def Obligations.CsChangeReadsHeaderOnly : Prop :=
  ∀ (w w' : Nat) (s : State), w % 2 = 1 → w % 16 = w' % 16 →
    acceptEvent w s = acceptEvent w' s

/-- A rising edge with both flags 0 emits nothing and still resets; a BITS event after any finalize starts a fresh
frame at its own start (R141). The content of the unset `frame_start_ts` is the model's (log 5). -/
def Obligations.EmptyFrameThenFreshStart : Prop :=
  (∀ (ev : EvtBody) (s : State) (rm : Nat), rangeMillivolts s.rangeSel = some rm →
    s.frame.rxPresent = false → s.frame.txPresent = false →
    exec (.csRise ev) s = .next { s with frame := clearFrame s.frame }) ∧
  ∀ (rise ev : EvtBody) (pad : BitVec 3) (s t : State), exec (.csRise rise) s = .next t →
    ev.lengthsLegal s.params = true →
    ∃ u, exec (.bits pad ev) t = .next u ∧ u.frame.frameStartValid = true ∧ u.frame.frameStartTs = ev.startTs

/-- An unrecognized register address emits no control record, and the voltage record of the same frame is still
emitted (R142, R193). -/
def Obligations.UnrecognizedWordKeepsVoltage : Prop :=
  ∀ (ev : EvtBody) (s : State) (rm : Nat), rangeMillivolts s.rangeSel = some rm →
    s.frame.rxPresent = true → s.frame.txPresent = true →
    ((ctlReg (correctedRaw s.frame.accTx)).toNat < 3 ∨ 7 < (ctlReg (correctedRaw s.frame.accTx)).toNat) →
    exec (.csRise ev) s =
      .next { s with frame := clearFrame s.frame, outBuf := s.outBuf ++ [voltageRecord rm s] }

/-- Only the rising edge emits: an accepted record whose header is not `0b1001` leaves the output buffer as it
was (R107, R131). -/
def Obligations.OnlyRisingEdgeEmits : Prop :=
  ∀ (w : Nat) (s t : State), acceptEvent w s = .next t → t.outBuf ≠ s.outBuf → w % 16 = 0b1001

/-- One event produces at most `MAX_ANN = 6` records, appended in order, and six are reached (R9). -/
def Obligations.AtMostSixRecords : Prop :=
  (∀ (w : Nat) (s t : State), acceptEvent w s = .next t →
    ∃ rs, t.outBuf = s.outBuf ++ rs ∧ rs.length ≤ 6) ∧
  ∃ (w : Nat) (s t : State), acceptEvent w s = .next t ∧ t.outBuf.length = s.outBuf.length + 6

/-- The two-state machine of R32, over every step: a step opens a frame only by accepting a BITS event, and closes
one only by a reset or by accepting a rising edge (R32, R251). -/
def Obligations.FrameOpensAndCloses : Prop :=
  ∀ s t : State, step s = .next t → t.frame.frameStartValid ≠ s.frame.frameStartValid →
    ∃ i rest, s.inputs = i :: rest ∧
      (if t.frame.frameStartValid
        then accepts s i = true ∧ i.ev % 2 = 0
        else i.rst = true ∨ (accepts s i = true ∧ i.ev % 16 = 0b1001))

/-! ## The Voltage Decoder (42_voltage_decoder.md) -/

/-- The value is `(2 * raw * rm + 32767) div 65534`, the multiple of 0.001 V nearest to `raw * rm / 32767`
millivolts, and no tie can occur (R162): the exact value lies at least 1/65534 mV from a rounding boundary
(the bound of R166). -/
def Obligations.VoltageIsNearest : Prop :=
  ∀ (raw : Raw) (rm : Nat),
    millivolts raw rm = (2 * raw.toNat * rm + 32767) / 65534 ∧
    2 * 32767 * millivolts raw rm < 2 * raw.toNat * rm + 32767 ∧
    2 * raw.toNat * rm < 2 * 32767 * millivolts raw rm + 32767

/-- The value lies in 0..20000 for every input and every range, fits the 16-bit field, and reaches 20000 at 65535
with the ±10V range (R165). -/
def Obligations.VoltageBounds : Prop :=
  (∀ (raw : Raw) (r : RangeSel) (rm : Nat), rangeMillivolts r = some rm →
    millivolts raw rm ≤ 20000 ∧ (BitVec.ofNat 16 (millivolts raw rm)).toNat = millivolts raw rm) ∧
  millivolts 65535 10000 = 20000

/-- The text of a voltage: the integer part in decimal, a point, exactly three digits that spell the remainder,
and "V"; so two voltages of one text are equal (R163). -/
def Obligations.VoltageText : Prop :=
  (∀ mv : Nat, mv ≤ 20000 → ∃ a b c : Nat, a < 10 ∧ b < 10 ∧ c < 10 ∧ mv % 1000 = 100 * a + 10 * b + c ∧
    (voltText mv).toList =
      Nat.toDigits 10 (mv / 1000) ++ ['.', Nat.digitChar a, Nat.digitChar b, Nat.digitChar c, 'V']) ∧
  ∀ m n : Nat, m ≤ 20000 → n ≤ 20000 → voltText m = voltText n → m = n

/-! ## The Control Decoder (43_control_decoder.md) -/

/-- `CTL_CHSEL` with exact spans emits its three records over the cells [0,8), [8,12) and [12,16) and writes
nothing else; the pads do not matter. The texts of the fields are two lowercase hexadecimal digits (R12, R184 to
R186). -/
def Obligations.ChannelSelectRecords : Prop :=
  ∀ (p15 p8 : Bool) (chb cha : BitVec 4) (s : State), spanExact s.params (frameStart s) s.frame.bitWidthTs = true →
    let hex : List String := ["00", "01", "02", "03", "04", "05", "06", "07", "08", "09", "0a", "0b", "0c", "0d",
      "0e", "0f"]
    exec (.ctlChsel p15 p8 chb cha) s = .next { s with outBuf := s.outBuf ++
      [exactRecord (frameStart s) s.frame.bitWidthTs 0 8 .regId 0 3 "03",
       exactRecord (frameStart s) s.frame.bitWidthTs 8 12 .chb 0 chb.toNat (hex.getD chb.toNat ""),
       exactRecord (frameStart s) s.frame.bitWidthTs 12 16 .cha 0 cha.toNat (hex.getD cha.toNat "")] }

/-- `CTL_RANGE_A_LO`, `CTL_RANGE_A_HI`, `CTL_RANGE_B_LO` and `CTL_RANGE_B_HI` with exact spans emit the label and
the four quadrants and write nothing else; the pads do not matter (R187 to R192). -/
def Obligations.RangeSelectRecords : Prop :=
  ∀ (p15 p8 : Bool) (q : Quads) (s : State), spanExact s.params (frameStart s) s.frame.bitWidthTs = true →
    let fs := frameStart s
    let w := s.frame.bitWidthTs
    let display : List String := ["10V", "2.5V", "5V", "10V"]
    let out : Nat → String → List Annotation := fun k label =>
      [exactRecord fs w 0 8 .rangeLabel 0 k label,
       exactRecord fs w 8 10 .quadRange 0 q.rng0.toNat (display.getD q.rng0.toNat ""),
       exactRecord fs w 10 12 .quadRange 1 q.rng1.toNat (display.getD q.rng1.toNat ""),
       exactRecord fs w 12 14 .quadRange 2 q.rng2.toNat (display.getD q.rng2.toNat ""),
       exactRecord fs w 14 16 .quadRange 3 q.rng3.toNat (display.getD q.rng3.toNat "")]
    exec (.ctlRangeALo p15 p8 q) s = .next { s with outBuf := s.outBuf ++ out 0 "Range A: Ch3-0" } ∧
    exec (.ctlRangeAHi p15 p8 q) s = .next { s with outBuf := s.outBuf ++ out 1 "Range A: Ch7-4" } ∧
    exec (.ctlRangeBLo p15 p8 q) s = .next { s with outBuf := s.outBuf ++ out 2 "Range B: Ch3-0" } ∧
    exec (.ctlRangeBHi p15 p8 q) s = .next { s with outBuf := s.outBuf ++ out 3 "Range B: Ch7-4" }

/-- Where the spans are not exact, a control decode still completes: the number, kinds, values and texts of its
records are those of the exact case, one draw of free timestamps is taken, and nothing else is written
(R181, I-5; the draw is the model's own, log 4). It says so of `CTL_CHSEL` and the four range-select instructions by
way of the control word. -/
def Obligations.InexactSpansKeepContent : Prop :=
  ∀ (raw : Raw) (s : State), spanExact s.params (frameStart s) s.frame.bitWidthTs = false →
    3 ≤ (ctlReg raw).toNat → (ctlReg raw).toNat ≤ 7 →
    ∃ rs, exec (decodeCtlw raw) s = .next { s with outBuf := s.outBuf ++ rs, draws := s.draws + 1 } ∧
      rs.map content = (controlOutput 0 0 raw.toNat).map content

/-- `CTL_NONE_0_1`, `CTL_NONE_2`, `CTL_NONE_8_15`, `CTL_NONE_16_31` and `CTL_NONE_32_63` complete, emit nothing and
leave the whole state as it was (R193). -/
def Obligations.UnrecognizedAddressSilent : Prop :=
  ∀ (p15 p8 : Bool) (payload : BitVec 8) (r1 : BitVec 1) (r3 : BitVec 3) (r4 : BitVec 4) (r5 : BitVec 5) (s : State),
    exec (.ctlNone01 p15 r1 p8 payload) s = .next s ∧ exec (.ctlNone2 p15 p8 payload) s = .next s ∧
    exec (.ctlNone815 p15 r3 p8 payload) s = .next s ∧ exec (.ctlNone1631 p15 r4 p8 payload) s = .next s ∧
    exec (.ctlNone3263 p15 r5 p8 payload) s = .next s

/-- The spans of one control decode are adjacent and do not overlap, they cover `[fs, fs + 16*w]`, and where
`w = 0` every one of them is `(fs, fs)` (R195). -/
def Obligations.ControlSpansAdjacent : Prop :=
  ∀ (raw : Raw) (s : State), spanExact s.params (frameStart s) s.frame.bitWidthTs = true →
    3 ≤ (ctlReg raw).toNat → (ctlReg raw).toNat ≤ 7 →
    ∃ first mid last, controlDecode raw s = .next { s with outBuf := s.outBuf ++ (first :: mid ++ [last]) } ∧
      List.IsChain (fun a b : Annotation => a.endTs = b.startTs) (first :: mid ++ [last]) ∧
      (∀ r ∈ first :: mid ++ [last], r.startTs ≤ r.endTs) ∧
      first.startTs = frameStart s ∧
      last.endTs = frameStart s + 16 * s.frame.bitWidthTs ∧
      (s.frame.bitWidthTs = 0 → ∀ r ∈ first :: mid ++ [last], r.startTs = frameStart s ∧ r.endTs = frameStart s)

/-- The output of a control decode depends only on `fs`, `w`, `raw[14:9]` and `raw[7:0]` (and, where the spans are
not exact, on the free values drawn): not on the pads, the range, earlier frames or the rx direction
(R196). -/
def Obligations.ControlOutputDependsOn : Prop :=
  ∀ (raw raw' : Raw) (s s' : State), raw.extractLsb' 9 6 = raw'.extractLsb' 9 6 →
    raw.extractLsb' 0 8 = raw'.extractLsb' 0 8 → s.params = s'.params → frameStart s = frameStart s' →
    s.frame.bitWidthTs = s'.frame.bitWidthTs →
    (spanExact s.params (frameStart s) s.frame.bitWidthTs = false → s.draws = s'.draws) →
    ∃ rs k, controlDecode raw s = .next { s with outBuf := s.outBuf ++ rs, draws := s.draws + k } ∧
      controlDecode raw' s' = .next { s' with outBuf := s'.outBuf ++ rs, draws := s'.draws + k }

/-- The quadrant display table, with its second "10V" (R192). -/
def Obligations.QuadrantDisplayTable : Prop :=
  rangeDisplay 0 = "10V" ∧ rangeDisplay 1 = "2.5V" ∧ rangeDisplay 2 = "5V" ∧ rangeDisplay 3 = "10V"

/-! ## The whole machine -/

/-- The reset state holds the values the spec gives (R35): every register but `frame_start_ts`, whose value is
unspecified, the output buffer empty, and so IDLE. -/
def Obligations.ResetValues : Prop :=
  (∃ v, State.reset.frame = { accRx := 0, accTx := 0, frameStartValid := false, frameStartTs := v, frameEndTs := 0
                              bitWidthValid := false, bitWidthTs := 0, rxPresent := false, txPresent := false }) ∧
  State.reset.outBuf = []

/-- The unset `frame_start_ts` is never read: from a state that meets the invariants of the FrameState, an accepted
event does the same whatever the unset register holds, but for the register itself while it stays unset (R23,
R34, I-6). -/
def Obligations.UnsetStartNeverRead : Prop :=
  ∀ (w : Nat) (s t : State) (v : Nat), FrameInv s.params s.frame → s.frame.frameStartValid = false →
    acceptEvent w s = .next t →
    ∃ v', acceptEvent w { s with frame := { s.frame with frameStartTs := v } } =
        .next { t with frame := { t.frame with frameStartTs := v' } } ∧
      (t.frame.frameStartValid = true → v' = t.frame.frameStartTs)

/-- The invariant holds at reset (R33 to R35, R109). That `State.reset` is the state of a block with the default
parameters, the values R5 and R8 give as defaults, is the model's choice (log 1), and so is the 0 it holds in the
unspecified `frame_start_ts`, on which the clause that the register is of `TS_WIDTH` bits rests (log 5). -/
def Obligations.InvariantAtReset : Prop :=
  Inv State.reset ∧ State.reset.params = { tsWidth := 64, maxBits := 16 }

/-- Every step keeps the invariant, in a block with any legal parameters: the FrameState's (R33, R34, R109), the bound
on the output buffer (R39), that every register and record timestamp is of `TS_WIDTH` bits (R5), and that every
record's class is its kind's and its text the one a sink renders from `kind`, `aux` and `value` (R36 to R38). No
step changes the parameters (log 1). -/
def Obligations.StepKeepsInvariant : Prop :=
  ∀ s t : State, Inv s → step s = .next t → Inv t ∧ t.params = s.params

/-- An instruction that avoids the value hazards of R257 reads no free value and draws none: from a state that meets
the invariants of the FrameState, its next state is the same, registers and records, for every value of `draws`,
the model's counter that every free value is a function of (logs 3 to 5). -/
def Obligations.HazardFreeDrawsNothing : Prop :=
  ∀ (i : Instr) (s t : State) (d : Nat), FrameInv s.params s.frame → hazardFree s i → exec i s = .next t →
    exec i { s with draws := d } = .next { t with draws := d }

/-- One duplex frame at the transaction level, from IDLE, in a block with any parameters: the three events of the
pseudo-event `FRAME` deliver the voltage record over the frame and the control word's records, and leave the block
IDLE (R5, R8, R84, R100, R137, R160, R180). Of more than 16 bits a frame keeps the low ones (R104). The content of
the unset `frame_start_ts` and the field `delivered` are the model's (logs 5 and 7). -/
def Obligations.FrameTransaction : Prop :=
  ∀ (r : RangeSel) (rm : Nat) (a b : Nat) (rx tx : TraceBits) (s : State), rangeMillivolts r = some rm →
    s.frame.frameStartValid = false → s.frame.accRx = 0 → s.frame.accTx = 0 → s.outBuf = [] →
    a ≤ b → b < 2 ^ s.params.tsWidth → 0 < rx.len.toNat → rx.len.toNat ≤ s.params.maxBits →
    0 < tx.len.toNat → tx.len.toNat ≤ s.params.maxBits →
    rx.vec.toNat < 2 ^ s.params.maxBits → tx.vec.toNat < 2 ^ s.params.maxBits →
    a + 16 * ((b - a) / tx.len.toNat) < 2 ^ s.params.tsWidth →
    ∃ t, transactAll (traceRecords s.params r [.frame a b rx tx]) s = .next t ∧
      t.delivered = s.delivered ++
        voltageOutput a b (rx.vec.toNat % 2 ^ rx.len.toNat % 2 ^ 16) rm ::
          controlOutput a ((b - a) / tx.len.toNat) (tx.vec.toNat % 2 ^ tx.len.toNat % 2 ^ 16) ∧
      t.outBuf = [] ∧ t.draws = s.draws ∧
      t.frame = { accRx := 0, accTx := 0, frameStartValid := false, frameStartTs := a, frameEndTs := b
                  bitWidthValid := true, bitWidthTs := (b - a) / tx.len.toNat
                  rxPresent := false, txPresent := false }

/-! ## The trace syntax (30_encoding.md) -/

/-- The lines of the trace syntax stand for the events R83 gives them, by their two levels for a `CS` line; the
directive stands for none and sets the range of the lines after it; and lines of 95_test_vectors.md, with a line of
each other form of R83 and R84, are read so. The ignored fields of a record are written 0, as R70 and R74 ask of
the upstream layer. A count above 16 is read where
`MAX_BITS` allows it (R8). The last two lines, a value too large for its count and a count above `MAX_BITS`, are
read as none by the model's choice (log 14). -/
def Obligations.TraceLinesStandForEvents : Prop :=
  (∀ (s e : Nat) (rx tx : TraceBits),
    traceEvents (.bits s e rx tx) = [.bits 0 ⟨s, e, rx.len, rx.vec, tx.len, tx.vec⟩]) ∧
  (∀ s e : Nat,
    traceEvents (.cs s e (some false) true) = [.csRise ⟨s, e, 0, 0, 0, 0⟩] ∧
    traceEvents (.cs s e (some true) false) = [.csFall ⟨s, e, 0, 0, 0, 0⟩] ∧
    traceEvents (.cs s e (some false) false) = [.csStayLow ⟨s, e, 0, 0, 0, 0⟩] ∧
    traceEvents (.cs s e (some true) true) = [.csStayHigh ⟨s, e, 0, 0, 0, 0⟩] ∧
    ∀ new, traceEvents (.cs s e none new) = [.csFirst new ⟨s, e, 0, 0, 0, 0⟩]) ∧
  (∀ (p : Config.Params) (r r' : RangeSel) (ls : List TraceLine),
    traceRecords p r (.range r' :: ls) = traceRecords p r' ls) ∧
  (∀ (p : Config.Params) (r : RangeSel) (l : TraceLine) (ls : List TraceLine), (∀ r', l ≠ .range r') →
    traceRecords p r (l :: ls) = traceRecords p r [l] ++ traceRecords p r ls) ∧
  readLine Config.defaults "BITS 1000 1160 rx=16'h4000 tx=16'h06a5" = some (.bits 1000 1160 ⟨16, 0x4000⟩ ⟨16, 0x06a5⟩) ∧
  readLine Config.defaults "BITS 560 570 rx=- tx=4'b1010" = some (.bits 560 570 ⟨0, 0⟩ ⟨4, 10⟩) ∧
  readLine Config.defaults "CS 990 991 1 0" = some (.cs 990 991 (some true) false) ∧
  readLine Config.defaults "CS 0 0 null 1" = some (.cs 0 0 none true) ∧
  readLine Config.defaults "CS   0 1 0 1        ; a rising edge" = some (.cs 0 1 (some false) true) ∧
  readLine Config.defaults ".range 2.5" = some (.range 0b01#2) ∧
  readLine Config.defaults ".range 5.0" = some (.range 0b00#2) ∧
  readLine Config.defaults ".range 10.0" = some (.range 0b10#2) ∧
  readLine Config.defaults "CS_FIRST 7 1" = some (.csFirst 7 true) ∧
  readLine Config.defaults "CS_FALL 7" = some (.csFall 7) ∧
  readLine Config.defaults "CS_RISE 7" = some (.csRise 7) ∧
  readLine Config.defaults "FRAME 5 9 rx=8'hff tx=1'h1" = some (.frame 5 9 ⟨8, 0xff⟩ ⟨1, 1⟩) ∧
  readLine { tsWidth := 64, maxBits := 32 } "BITS 0 1 rx=- tx=17'h10000" = some (.bits 0 1 ⟨0, 0⟩ ⟨17, 0x10000⟩) ∧
  readLine Config.defaults "BITS 0 1 rx=4'hff tx=-" = none ∧
  readLine Config.defaults "BITS 0 1 rx=17'h0 tx=-" = none
end

