-- ==== Sys2Proof/Laws/Fields.lean ====
section
/-!
SUPPORT. Reading a field back from the record it is packed in, and packing the fields of a record back into it.
-/

namespace Sys2Proof

theorem packFields_cons (n v : Nat) (fs : List (Nat × Nat)) :
    packFields ((n, v) :: fs) = v % 2 ^ n + 2 ^ n * packFields fs := rfl

/-- A record of fields is below the power of 2 of the sum of their widths. -/
theorem packFields_lt (fs : List (Nat × Nat)) : packFields fs < 2 ^ (fs.map Prod.fst).sum := by
  induction fs with
  | nil => simp [packFields]
  | cons f fs ih =>
    obtain ⟨n, v⟩ := f
    have hv : v % 2 ^ n < 2 ^ n := Nat.mod_lt _ (Nat.two_pow_pos n)
    rw [packFields_cons, List.map_cons, List.sum_cons, Nat.pow_add]
    calc v % 2 ^ n + 2 ^ n * packFields fs < 2 ^ n + 2 ^ n * packFields fs := by omega
      _ = 2 ^ n * (packFields fs + 1) := by ring
      _ ≤ 2 ^ n * 2 ^ (fs.map Prod.fst).sum := Nat.mul_le_mul_left _ ih

/-- Each field of a record stands above the fields before it. -/
theorem field_packFields (below above : List (Nat × Nat)) (n v : Nat) :
    field (packFields (below ++ (n, v) :: above)) (below.map Prod.fst).sum n = v % 2 ^ n := by
  induction below with
  | nil => simp [field, packFields_cons, Nat.add_mul_mod_self_left]
  | cons f fs ih =>
    obtain ⟨k, x⟩ := f
    have hx : x % 2 ^ k < 2 ^ k := Nat.mod_lt _ (Nat.two_pow_pos k)
    rw [← ih]
    simp only [List.cons_append, List.map_cons, List.sum_cons, field, packFields_cons, Nat.pow_add,
      ← Nat.div_div_eq_div_mul]
    rw [Nat.add_mul_div_left _ _ (Nat.two_pow_pos k), Nat.div_eq_of_lt hx, Nat.zero_add]

/-- A field is a number of its width. -/
theorem field_lt (w lo n : Nat) : field w lo n < 2 ^ n := Nat.mod_lt _ (Nat.two_pow_pos n)

/-- Two fields side by side are one field. -/
theorem field_add (w lo n m : Nat) : field w lo n + 2 ^ n * field w (lo + n) m = field w lo (n + m) := by
  simp only [field, Nat.pow_add, ← Nat.div_div_eq_div_mul, Nat.mod_mul]

end Sys2Proof
end

