-- ==== Sys2Proof/Laws/State.lean ====
section
/-!
SUPPORT. One lemma per field and update of the state, so that no later proof unfolds a record update.
-/

namespace Sys2Proof.Machine

section emit
variable (rs : List Annotation) (s : State)

@[simp] theorem emit_params : (emit rs s).params = s.params := rfl
@[simp] theorem emit_frame : (emit rs s).frame = s.frame := rfl
@[simp] theorem emit_outBuf : (emit rs s).outBuf = s.outBuf ++ rs := rfl
@[simp] theorem emit_rangeSel : (emit rs s).rangeSel = s.rangeSel := rfl
@[simp] theorem emit_inputs : (emit rs s).inputs = s.inputs := rfl
@[simp] theorem emit_delivered : (emit rs s).delivered = s.delivered := rfl
@[simp] theorem emit_draws : (emit rs s).draws = s.draws := rfl
@[simp] theorem emitControl_params : (emitControl rs s).params = s.params := rfl
@[simp] theorem emitControl_frame : (emitControl rs s).frame = s.frame := rfl
@[simp] theorem emitControl_outBuf : (emitControl rs s).outBuf = s.outBuf ++ rs := rfl
@[simp] theorem emitControl_rangeSel : (emitControl rs s).rangeSel = s.rangeSel := rfl
@[simp] theorem emitControl_inputs : (emitControl rs s).inputs = s.inputs := rfl
@[simp] theorem emitControl_delivered : (emitControl rs s).delivered = s.delivered := rfl
@[simp] theorem emitControl_draws : (emitControl rs s).draws = s.draws + spanDraws s := rfl

end emit

section accumulate
variable (ev : EvtBody) (s : State)

@[simp] theorem accumulate_params : (accumulate ev s).params = s.params := rfl
@[simp] theorem accumulate_frame :
    (accumulate ev s).frame = accumulateFrame s.params ev s.draws s.frame := rfl
@[simp] theorem accumulate_outBuf : (accumulate ev s).outBuf = s.outBuf := rfl
@[simp] theorem accumulate_rangeSel : (accumulate ev s).rangeSel = s.rangeSel := rfl
@[simp] theorem accumulate_inputs : (accumulate ev s).inputs = s.inputs := rfl
@[simp] theorem accumulate_delivered : (accumulate ev s).delivered = s.delivered := rfl
@[simp] theorem accumulate_draws : (accumulate ev s).draws = s.draws + widthDraws ev := rfl

end accumulate

section clear
variable (f : FrameState) (s : State)

@[simp] theorem clearFrame_accRx : (clearFrame f).accRx = 0 := rfl
@[simp] theorem clearFrame_accTx : (clearFrame f).accTx = 0 := rfl
@[simp] theorem clearFrame_frameStartValid : (clearFrame f).frameStartValid = false := rfl
@[simp] theorem clearFrame_frameStartTs : (clearFrame f).frameStartTs = f.frameStartTs := rfl
@[simp] theorem clearFrame_frameEndTs : (clearFrame f).frameEndTs = f.frameEndTs := rfl
@[simp] theorem clearFrame_bitWidthValid : (clearFrame f).bitWidthValid = f.bitWidthValid := rfl
@[simp] theorem clearFrame_bitWidthTs : (clearFrame f).bitWidthTs = f.bitWidthTs := rfl
@[simp] theorem clearFrame_rxPresent : (clearFrame f).rxPresent = false := rfl
@[simp] theorem clearFrame_txPresent : (clearFrame f).txPresent = false := rfl
@[simp] theorem finalizeReset_params : (finalizeReset s).params = s.params := rfl
@[simp] theorem finalizeReset_frame : (finalizeReset s).frame = clearFrame s.frame := rfl
@[simp] theorem finalizeReset_outBuf : (finalizeReset s).outBuf = s.outBuf := rfl
@[simp] theorem finalizeReset_rangeSel : (finalizeReset s).rangeSel = s.rangeSel := rfl
@[simp] theorem finalizeReset_inputs : (finalizeReset s).inputs = s.inputs := rfl
@[simp] theorem finalizeReset_delivered : (finalizeReset s).delivered = s.delivered := rfl
@[simp] theorem finalizeReset_draws : (finalizeReset s).draws = s.draws := rfl

end clear

section pins
variable (i : PortIn) (rest : List PortIn) (s : State)

@[simp] theorem loadPins_params : (loadPins i rest s).params = s.params := rfl
@[simp] theorem loadPins_frame : (loadPins i rest s).frame = s.frame := rfl
@[simp] theorem loadPins_outBuf : (loadPins i rest s).outBuf = s.outBuf := rfl
@[simp] theorem loadPins_rangeSel : (loadPins i rest s).rangeSel = i.rangeSel := rfl
@[simp] theorem loadPins_inputs : (loadPins i rest s).inputs = rest := rfl
@[simp] theorem loadPins_delivered : (loadPins i rest s).delivered = s.delivered := rfl
@[simp] theorem loadPins_draws : (loadPins i rest s).draws = s.draws := rfl
@[simp] theorem applyReset_params : (applyReset s).params = s.params := rfl
@[simp] theorem applyReset_frame :
    (applyReset s).frame = FrameState.reset (Config.freeFrameStart s.draws % 2 ^ s.params.tsWidth) := rfl
@[simp] theorem applyReset_outBuf : (applyReset s).outBuf = [] := rfl
@[simp] theorem applyReset_rangeSel : (applyReset s).rangeSel = s.rangeSel := rfl
@[simp] theorem applyReset_inputs : (applyReset s).inputs = s.inputs := rfl
@[simp] theorem applyReset_delivered : (applyReset s).delivered = s.delivered := rfl
@[simp] theorem applyReset_draws : (applyReset s).draws = s.draws + 1 := rfl
@[simp] theorem drain_params : (drain s).params = s.params := rfl
@[simp] theorem drain_frame : (drain s).frame = s.frame := rfl
@[simp] theorem drain_outBuf : (drain s).outBuf = [] := rfl
@[simp] theorem drain_rangeSel : (drain s).rangeSel = s.rangeSel := rfl
@[simp] theorem drain_inputs : (drain s).inputs = s.inputs := rfl
@[simp] theorem drain_delivered : (drain s).delivered = s.delivered ++ s.outBuf := rfl
@[simp] theorem drain_draws : (drain s).draws = s.draws := rfl

end pins

section frame
variable (p : Config.Params) (ev : EvtBody) (draws : Nat) (f : FrameState)

/-- What a BITS event leaves in each register of the FrameState (R101 to R105). -/
theorem accumulateFrame_eq : accumulateFrame p ev draws f =
    { accRx := if presence ev.rxLen then foldBits f.accRx (rxSeq ev) else f.accRx
      accTx := if presence ev.txLen then foldBits f.accTx (txSeq ev) else f.accTx
      frameStartValid := true
      frameStartTs := if f.frameStartValid then f.frameStartTs else ev.startTs
      frameEndTs := ev.endTs
      bitWidthValid := f.bitWidthValid || presence ev.rxLen || presence ev.txLen
      bitWidthTs :=
        if presence ev.txLen then cellWidth p ev ev.txLen.toNat draws
        else if presence ev.rxLen then cellWidth p ev ev.rxLen.toNat draws
        else f.bitWidthTs
      rxPresent := presence ev.rxLen
      txPresent := presence ev.txLen } := by
  unfold accumulateFrame accumulateTx accumulateRx recordEnd openFrame recordPresence
  cases h : f.frameStartValid <;> cases presence ev.rxLen <;> cases presence ev.txLen <;> simp

end frame

end Sys2Proof.Machine
end

