-- ==== Sys2Proof/Laws/Ops.lean ====
section
/-!
SUPPORT. One lemma for each shared operation that says everything it can do.
-/

namespace Sys2Proof.Machine

/-! ## Sequencing -/

@[simp] theorem andThen_next (s : State) (f : State → Result) : andThen (.next s) f = f s := rfl
@[simp] theorem andThen_fault (r : Fault) (f : State → Result) : andThen (.fault r) f = .fault r := rfl
@[simp] theorem andThen_refused (r : Refusal) (f : State → Result) : andThen (.refused r) f = .refused r := rfl

/-- A sequence that answers a next state went through one. -/
theorem andThen_eq_next {o : Result} {f : State → Result} {t : State} :
    andThen o f = .next t ↔ ∃ s, o = .next s ∧ f s = .next t := by
  cases o <;> simp [andThen]

/-! ## The fold -/

@[simp] theorem foldBits_nil (a : Acc) : foldBits a [] = a := rfl

/-- The first element is folded in last (R104). -/
theorem foldBits_cons (a : Acc) (b : Bool) (s : List Bool) : foldBits a (b :: s) = foldBit (foldBits a s) b := by
  simp [foldBits]

/-! ## The two decoders -/

/-- A control decode always completes: it appends records, draws, and does nothing else (R180). -/
theorem controlDecode_cases (raw : Raw) (s : State) :
    controlDecode raw s = .next s ∨
    ∃ rs, controlDecode raw s = .next (emitControl rs s) ∧ (rs.length = 3 ∨ rs.length = 5) := by
  simp only [controlDecode]
  split
  · exact .inr ⟨_, rfl, .inl rfl⟩
  · split
    · exact .inr ⟨_, rfl, .inr rfl⟩
    · split
      · exact .inr ⟨_, rfl, .inr rfl⟩
      · split
        · exact .inr ⟨_, rfl, .inr rfl⟩
        · split
          · exact .inr ⟨_, rfl, .inr rfl⟩
          · left
            simp only [controlNone, execCtlNone01, execCtlNone2, execCtlNone815, execCtlNone1631, execCtlNone3263]
            repeat' split
            all_goals rfl

/-- The voltage decode appends its one record, where rx bits are present (R164). -/
theorem finalizeVoltage_eq (rm : Nat) (s : State) :
    finalizeVoltage rm s = emit (if s.frame.rxPresent then [voltageRecord rm s] else []) s := by
  unfold finalizeVoltage
  split <;> simp [voltageDecode, emit]

/-- The finalize sequence is refused for the reserved range alone, and else completes: it appends at most six
records, draws, clears the frame and does nothing else (R137 to R140). -/
theorem finalize_cases (s : State) :
    (rangeMillivolts s.rangeSel = none ∧ finalize s = .refused .reservedRangeSel) ∨
    ∃ rs k, rs.length ≤ Config.maxAnn ∧
      finalize s = .next { s with frame := clearFrame s.frame, outBuf := s.outBuf ++ rs, draws := s.draws + k } := by
  cases h : rangeMillivolts s.rangeSel with
  | none => simp [finalize, h]
  | some rm =>
    right
    simp only [finalize, h, finalizeWith, finalizeVoltage_eq, finalizeControl]
    generalize hv : (if s.frame.rxPresent then [voltageRecord rm s] else []) = vs
    have hl : vs.length ≤ 1 := by subst hv; split <;> simp
    split
    · rcases controlDecode_cases (correctedRaw (emit vs s).frame.accTx) (emit vs s) with hc | ⟨rs, hc, hrs⟩
      · refine ⟨vs, 0, by simp [Config.maxAnn]; omega, ?_⟩
        simp only [hc, andThen_next]
        rfl
      · refine ⟨vs ++ rs, spanDraws (emit vs s), by simp [Config.maxAnn]; omega, ?_⟩
        simp only [hc, andThen_next]
        simp [emitControl, emit, finalizeReset]
    · refine ⟨vs, 0, by simp [Config.maxAnn]; omega, ?_⟩
      simp only [andThen_next]
      rfl

/-! ## A cycle -/

/-- A record taken moves from the front of the buffer to the end of `delivered`, and nothing else (R254). -/
theorem takeRecord_cons {s : State} {r : Annotation} {rs : List Annotation} (h : s.outBuf = r :: rs) :
    takeRecord s = { s with outBuf := rs, delivered := s.delivered ++ [r] } := by
  simp [takeRecord, h]

/-- What one cycle does with a sample (R250 to R255). -/
theorem cycleWith_cases (i : PortIn) (s : State) :
    (i.rst = true ∧ cycleWith i s = .next (applyReset s)) ∨
    (i.rst = false ∧ i.evValid = true ∧ s.outBuf = [] ∧ cycleWith i s = acceptEvent i.ev s) ∨
    (i.rst = false ∧ i.annReady = true ∧ s.outBuf ≠ [] ∧ cycleWith i s = .next (takeRecord s)) ∨
    (i.rst = false ∧ (s.outBuf = [] → i.evValid = false) ∧ (s.outBuf ≠ [] → i.annReady = false) ∧
      cycleWith i s = .next s) := by
  cases h : i.rst <;> cases hv : i.evValid <;> cases ha : i.annReady <;> cases hb : s.outBuf <;>
    simp [cycleWith, accepts, evReady, takes, annValid, h, hv, ha, hb]

end Sys2Proof.Machine
end

