-- ==== Sys2Proof/Laws/PerInstr.lean ====
section
/-!
SUPPORT. Statements about every instruction as syntax, one lemma per constructor. The family `RowBits`: the
word of an instruction meets the mask and match of its row of spec/opcode_table.json (R71, R80).
-/

namespace Sys2Proof.Laws.RowBits

open Sys2Proof

/-- A word meets a row: an event by its header, a control word whole. -/
def meets (mask pattern : Nat) : EncodedWord → Prop
  | .evt w => BitVec.ofNat 4 w &&& BitVec.ofNat 4 mask = BitVec.ofNat 4 pattern
  | .ctlw w => w &&& BitVec.ofNat 16 mask = BitVec.ofNat 16 pattern

/-- The mask and match of an instruction's row in spec/opcode_table.json. -/
def row : Instr → Nat × Nat
  | .bits _ _ => (0x1, 0x0)
  | .csRise _ => (0xF, 0x9)
  | .csFall _ => (0xF, 0x3)
  | .csStayLow _ => (0xF, 0x1)
  | .csStayHigh _ => (0xF, 0xB)
  | .csFirst _ _ => (0x7, 0x5)
  | .csRsvd _ _ => (0x7, 0x7)
  | .ctlNone01 _ _ _ _ => (0x7C00, 0x0000)
  | .ctlNone2 _ _ _ => (0x7E00, 0x0400)
  | .ctlChsel _ _ _ _ => (0x7E00, 0x0600)
  | .ctlRangeALo _ _ _ => (0x7E00, 0x0800)
  | .ctlRangeAHi _ _ _ => (0x7E00, 0x0A00)
  | .ctlRangeBLo _ _ _ => (0x7E00, 0x0C00)
  | .ctlRangeBHi _ _ _ => (0x7E00, 0x0E00)
  | .ctlNone815 _ _ _ _ => (0x7000, 0x1000)
  | .ctlNone1631 _ _ _ _ => (0x6000, 0x2000)
  | .ctlNone3263 _ _ _ _ => (0x4000, 0x4000)

/-- The word of `i` meets its row, in a block with any parameters. -/
def Statement (i : Instr) : Prop := ∀ p : Config.Params, meets (row i).1 (row i).2 (encode p i)

/-- The header of a packed record is its low four bits. -/
theorem packEvt_hdr (p : Config.Params) (h : BitVec 4) (ev : EvtBody) : BitVec.ofNat 4 (packEvt p h ev) = h := by
  apply BitVec.eq_of_toNat_eq
  simp only [packEvt, packFields_cons, BitVec.toNat_ofNat]
  have := h.isLt
  omega

/-- Bit `k` of a packed control word, by the field it falls in. -/
theorem packCtlw_getLsbD (p15 p8 : Bool) (reg : BitVec 6) (payload : BitVec 8) (k : Nat) (hk : k < 16) :
    (packCtlw p15 reg p8 payload).getLsbD k =
      if k < 8 then payload.getLsbD k
      else if k < 9 then p8
      else if k < 15 then reg.getLsbD (k - 9)
      else p15 := by
  simp only [packCtlw, BitVec.getLsbD_cast, BitVec.getLsbD_append, BitVec.getLsbD_ofBool]
  interval_cases k <;> simp

/-- A control word meets a row whose mask lies in the register-address field when its address does. -/
theorem meets_of_reg {mask pattern : Nat} {p15 p8 : Bool} {reg : BitVec 6} {payload : BitVec 8} (m p : BitVec 6)
    (hm : BitVec.ofNat 16 mask = packCtlw false m false 0)
    (hp : BitVec.ofNat 16 pattern = packCtlw false p false 0) (h : reg &&& m = p) :
    meets mask pattern (.ctlw (packCtlw p15 reg p8 payload)) := by
  subst h
  simp only [meets, hm, hp]
  apply BitVec.eq_of_getLsbD_eq
  intro k hk
  simp only [BitVec.getLsbD_and, packCtlw_getLsbD _ _ _ _ k hk]
  grind

theorem bits (pad : BitVec 3) (ev : EvtBody) : Statement (.bits pad ev) := by
  intro p
  simp only [row, encode, meets, packEvt_hdr]
  revert pad
  decide

theorem csRise (ev : EvtBody) : Statement (.csRise ev) := by
  intro p
  simp only [row, encode, meets, packEvt_hdr]
  decide

theorem csFall (ev : EvtBody) : Statement (.csFall ev) := by
  intro p
  simp only [row, encode, meets, packEvt_hdr]
  decide

theorem csStayLow (ev : EvtBody) : Statement (.csStayLow ev) := by
  intro p
  simp only [row, encode, meets, packEvt_hdr]
  decide

theorem csStayHigh (ev : EvtBody) : Statement (.csStayHigh ev) := by
  intro p
  simp only [row, encode, meets, packEvt_hdr]
  decide

theorem csFirst (new : Bool) (ev : EvtBody) : Statement (.csFirst new ev) := by
  intro p
  simp only [row, encode, meets, packEvt_hdr]
  revert new
  decide

theorem csRsvd (new : Bool) (ev : EvtBody) : Statement (.csRsvd new ev) := by
  intro p
  simp only [row, encode, meets, packEvt_hdr]
  revert new
  decide

theorem ctlNone01 (p15 : Bool) (reg : BitVec 1) (p8 : Bool) (payload : BitVec 8) :
    Statement (.ctlNone01 p15 reg p8 payload) := fun _ =>
  meets_of_reg (mask := 0x7C00) (pattern := 0x0000) 0x3E 0 (by decide) (by decide) (by revert reg; decide)

theorem ctlNone2 (p15 p8 : Bool) (payload : BitVec 8) : Statement (.ctlNone2 p15 p8 payload) := fun _ =>
  meets_of_reg (mask := 0x7E00) (pattern := 0x0400) 0x3F 2 (by decide) (by decide) (by decide)

theorem ctlChsel (p15 p8 : Bool) (chb cha : BitVec 4) : Statement (.ctlChsel p15 p8 chb cha) := fun _ =>
  meets_of_reg (mask := 0x7E00) (pattern := 0x0600) 0x3F 3 (by decide) (by decide) (by decide)

theorem ctlRangeALo (p15 p8 : Bool) (q : Quads) : Statement (.ctlRangeALo p15 p8 q) := fun _ =>
  meets_of_reg (mask := 0x7E00) (pattern := 0x0800) 0x3F 4 (by decide) (by decide) (by decide)

theorem ctlRangeAHi (p15 p8 : Bool) (q : Quads) : Statement (.ctlRangeAHi p15 p8 q) := fun _ =>
  meets_of_reg (mask := 0x7E00) (pattern := 0x0A00) 0x3F 5 (by decide) (by decide) (by decide)

theorem ctlRangeBLo (p15 p8 : Bool) (q : Quads) : Statement (.ctlRangeBLo p15 p8 q) := fun _ =>
  meets_of_reg (mask := 0x7E00) (pattern := 0x0C00) 0x3F 6 (by decide) (by decide) (by decide)

theorem ctlRangeBHi (p15 p8 : Bool) (q : Quads) : Statement (.ctlRangeBHi p15 p8 q) := fun _ =>
  meets_of_reg (mask := 0x7E00) (pattern := 0x0E00) 0x3F 7 (by decide) (by decide) (by decide)

theorem ctlNone815 (p15 : Bool) (reg : BitVec 3) (p8 : Bool) (payload : BitVec 8) :
    Statement (.ctlNone815 p15 reg p8 payload) := fun _ =>
  meets_of_reg (mask := 0x7000) (pattern := 0x1000) 0x38 8 (by decide) (by decide) (by revert reg; decide)

theorem ctlNone1631 (p15 : Bool) (reg : BitVec 4) (p8 : Bool) (payload : BitVec 8) :
    Statement (.ctlNone1631 p15 reg p8 payload) := fun _ =>
  meets_of_reg (mask := 0x6000) (pattern := 0x2000) 0x30 16 (by decide) (by decide) (by revert reg; decide)

theorem ctlNone3263 (p15 : Bool) (reg : BitVec 5) (p8 : Bool) (payload : BitVec 8) :
    Statement (.ctlNone3263 p15 reg p8 payload) := fun _ =>
  meets_of_reg (mask := 0x4000) (pattern := 0x4000) 0x20 32 (by decide) (by decide) (by revert reg; decide)

end Sys2Proof.Laws.RowBits
end

