-- ==== Sys2Proof/Laws/Step.lean ====
section
/-!
SUPPORT. What a step is, by the samples that wait, and that `runSteps` is the host's run.
-/

namespace Sys2Proof.Machine

/-- With no sample left a step holds the state (R231, log 9). -/
theorem step_of_no_input {s : State} (h : s.inputs = []) : step s = .next s := by
  simp [step, cycle, h]

/-- With a sample waiting a step is the cycle with that sample. -/
theorem step_of_input {s : State} {i : PortIn} {rest : List PortIn} (h : s.inputs = i :: rest) :
    step s = cycleWith i (loadPins i rest s) := by
  simp [step, cycle, h]

@[simp] theorem runSteps_zero (s : State) : runSteps 0 s = .next s := rfl

theorem runSteps_succ (n : Nat) (s : State) : runSteps (n + 1) s = andThen (step s) (runSteps n) := rfl

/-- `runSteps` is the host's run of the machine. -/
theorem runSteps_eq_run (n : Nat) (s : State) : Host.Core.run Sys2Proof.core n s = runSteps n s := by
  induction n generalizing s with
  | zero => rfl
  | succ n ih =>
    rw [runSteps_succ]
    simp only [Host.Core.run]
    split
    · rename_i t h
      rw [show step s = .next t from h]
      exact ih t
    · rename_i r h
      rw [show step s = .fault r from h]
      rfl
    · rename_i r h
      rw [show step s = .refused r from h]
      rfl

end Sys2Proof.Machine
end

