-- ==== Sys2Proof/Tests/Slice0.lean ====
section
/-!
SUPPORT. The model's own tests. Expected results come from the spec: the rows of 95_test_vectors.md and the
examples of the rules, named in each test. After them, for every statement of the obligations that has
hypotheses, a concrete state and operands that meet them all.
-/

namespace Sys2Proof.Tests

open Sys2Proof Sys2Proof.Machine

/-! ## Helpers -/

/-- The next state of an outcome, none where it stops. -/
def after : Result → Option State
  | .next s => some s
  | .fault _ => none
  | .refused _ => none

/-- Why an outcome is refused. -/
def why : Result → Option Refusal
  | .next _ => none
  | .fault _ => none
  | .refused r => some r

/-- The records in the buffer after an outcome. -/
def records (o : Result) : Option (List Annotation) := (after o).map State.outBuf

/-- The reset state with another FrameState. -/
def withFrame (f : FrameState) : State := { State.reset with frame := f }

/-- `S*` of 95_test_vectors.md section 3: after `BITS 1000 1160 rx=16'h4000 tx=16'h06a5` from reset. -/
def frameS : FrameState := ⟨0x08000, 0x00d4a, true, 1000, 1160, true, 10, true, true⟩

/-- The machine in `S*`. -/
def stateS : State := withFrame frameS

/-- An open frame with the given start and bit width, for a control decode alone. -/
def ctlState (fs w : Nat) : State := withFrame ⟨0, 0, true, fs, fs, true, w, false, true⟩

/-- An event body from its fields. -/
def body (s e : Nat) (rl : Len) (rv : Vec) (tl : Len) (tv : Vec) : EvtBody := ⟨s, e, rl, rv, tl, tv⟩

/-- The body of the example of R100. -/
def bodyS : EvtBody := body 1000 1160 16 0x4000 16 0x06a5

/-- The default parameters. -/
abbrev dp : Config.Params := Config.defaults

/-- The widest `MAX_BITS`, beside a `TS_WIDTH` of 32. -/
def wide : Config.Params := { tsWidth := 32, maxBits := 32 }

/-- Narrow parameters, at which a record has 40 bits. -/
def small : Config.Params := { tsWidth := 8, maxBits := 4 }

/-- A body of zeros. -/
def body0 : EvtBody := body 0 0 0 0 0 0

/-- A sample with `rst` low. -/
def sample (valid : Bool) (w : Nat) (ready : Bool) (r : RangeSel) : PortIn := ⟨false, valid, w, ready, r⟩

/-- A reset cycle with no event offered (R253). -/
def resetSample : PortIn := ⟨true, false, 0, false, 0⟩

/-- A control record. -/
def ctl (s e : Nat) (k : AnnKind) (aux : BitVec 2) (v : BitVec 16) (t : String) : Annotation :=
  ⟨s, e, .control, k, aux, v, t⟩

/-- A voltage record. -/
def volt (s e : Nat) (v : BitVec 16) (t : String) : Annotation := ⟨s, e, .voltage, .volt, 0, v, t⟩

/-! ## Well-formedness: each check refuses an ill-formed term (R76) -/

theorem test_wf_refuses_long_rx : (Instr.bits 0 (body 0 0 17 0 0 0)).wellFormed dp = false := by decide
theorem test_wf_refuses_long_tx : (Instr.bits 0 (body 0 0 0 0 17 0)).wellFormed dp = false := by decide
theorem test_wf_admits_sixteen : (Instr.bits 7 (body 0 0 16 0 16 0)).wellFormed dp = true := by decide
theorem test_wf_ignores_cs_lengths : (Instr.csFall (body 0 0 63 0 63 0)).wellFormed dp = true := by decide

theorem test_wf_refuses_wide_start : (Instr.csRise (body (2 ^ 64) 0 0 0 0 0)).wellFormed dp = false := by decide
theorem test_wf_refuses_wide_end : (Instr.bits 0 (body 0 (2 ^ 64) 0 0 0 0)).wellFormed dp = false := by decide
theorem test_wf_refuses_wide_rx : (Instr.csFall (body 0 0 0 0x10000 0 0)).wellFormed dp = false := by decide
theorem test_wf_refuses_wide_tx : (Instr.bits 0 (body 0 0 0 0 0 0x10000)).wellFormed dp = false := by decide
theorem test_wf_admits_widest :
    (Instr.bits 0 (body (2 ^ 64 - 1) (2 ^ 64 - 1) 16 0xffff 16 0xffff)).wellFormed dp = true := by decide

/-! ## The parameters (R5, R8) -/

/-- The lengths of the packed records at the default parameters (R77, R82). -/
theorem test_default_lengths : evtBits dp = 176 ∧ annBits dp = 150 := by decide
/-- The legal values of `MAX_BITS` (R8). -/
theorem test_legal_parameters : dp.legal = true ∧ wide.legal = true ∧ small.legal = true ∧
    Config.Params.legal ⟨64, 0⟩ = false ∧ Config.Params.legal ⟨64, 33⟩ = false := by decide
/-- A record of 40 bits, written from the positions R77 gives for `TS_WIDTH = 8` and `MAX_BITS = 4`: `tx_vec` and
`tx_len`, `rx_vec` and `rx_len`, `end_ts`, `start_ts`, `hdr`. -/
theorem test_decode_small :
    (decode small (.evt 0b1010_000100_0001_000001_01101110_01100100_0000)).toOption =
      some (.bits 0 (body 100 110 1 0b0001 4 0b1010)) := by decide
/-- `MAX_BITS = 4`: a count of 5 is refused (R76). -/
theorem test_small_refuses_five :
    why (exec (.bits 0 (body 0 0 0 0 5 0)) { State.reset with params := small }) = some .bitCountAboveMaxBits := by
  decide
/-- `MAX_BITS = 32`: a count of 32 is taken, and the fold keeps the low 16 bits and bit 0 clear (R8, R104, R108). -/
theorem test_wide_takes_thirty_two :
    (after (exec (.bits 0 (body 0 64 32 0xabcd4000 0 0)) { State.reset with params := wide })).map State.frame =
      some ⟨0x08000, 0, true, 0, 64, true, 2, true, false⟩ := by decide
/-- `MAX_BITS = 32`: a count of 33 is refused (R76). -/
theorem test_wide_refuses_thirty_three :
    why (exec (.bits 0 (body 0 0 33 0 0 0)) { State.reset with params := wide }) = some .bitCountAboveMaxBits := by
  decide
/-- `TS_WIDTH = 8`: the spans are exact up to `fs + 16 * w = 255` (R181). -/
theorem test_small_span_exact : spanExact small 15 15 = true ∧ spanExact small 16 15 = false := by decide

/-! ## Decoding: a word written out from the encoding of each row (R71, R77, R78 to R80) -/

/-- P1 event 3, its word from 95_test_vectors.md. -/
theorem test_decode_bits :
    decodeTableWord 176 0x06a54100010000000000000048800000000000003e80 = some (.bits 0 bodyS) := by decide
/-- P1 event 4. -/
theorem test_decode_cs_rise :
    decodeTableWord 176 0x00000000000000000000000048900000000000004889 = some (.csRise (body 1160 1161 0 0 0 0)) := by
  decide
/-- P1 event 2. -/
theorem test_decode_cs_fall :
    decodeTableWord 176 0x0000000000000000000000003df00000000000003de3 = some (.csFall (body 990 991 0 0 0 0)) := by
  decide
/-- P3 event 5. -/
theorem test_decode_cs_stay_low :
    decodeTableWord 176 0x00000000000000000000000010500000000000001041 =
      some (.csStayLow (body 260 261 0 0 0 0)) := by decide
/-- `hdr = 0b1011` (R135), `start_ts = 5` at bit 4, `end_ts = 6` at bit 68. -/
theorem test_decode_cs_stay_high :
    decodeTableWord 176 0x60000000000000005b = some (.csStayHigh (body 5 6 0 0 0 0)) := by decide
/-- P1 event 1. -/
theorem test_decode_cs_first : decodeTableWord 176 0xd = some (.csFirst true body0) := by decide
/-- C9: `hdr = 0xF`. -/
theorem test_decode_cs_rsvd : decodeTableWord 8 0xf = some (.csRsvd true body0) := by decide
/-- Register address 1: bit 9. -/
theorem test_decode_ctl_none_0_1 : decodeTableWord 16 0b0000001000000000 = some (.ctlNone01 false 1 false 0) := by
  decide
theorem test_decode_ctl_none_2 : decodeTableWord 16 0b1000010011111111 = some (.ctlNone2 true false 0xff) := by decide
/-- The source's own word, `0000011 0 1010 0101` (L1-3). -/
theorem test_decode_ctl_chsel : decodeTableWord 16 0b0000011010100101 = some (.ctlChsel false false 0xa 0x5) := by
  decide
/-- `0x081B`, quadrants 0, 1, 2, 3 (L1-4). -/
theorem test_decode_ctl_range_a_lo :
    decodeTableWord 16 0b0000100000011011 = some (.ctlRangeALo false false ⟨0, 1, 2, 3⟩) := by decide
theorem test_decode_ctl_range_a_hi :
    decodeTableWord 16 0b0000101011111111 = some (.ctlRangeAHi false false ⟨3, 3, 3, 3⟩) := by decide
theorem test_decode_ctl_range_b_lo :
    decodeTableWord 16 0b0000110001010101 = some (.ctlRangeBLo false false ⟨1, 1, 1, 1⟩) := by decide
theorem test_decode_ctl_range_b_hi :
    decodeTableWord 16 0b1000111110101010 = some (.ctlRangeBHi true true ⟨2, 2, 2, 2⟩) := by decide
/-- Register address 10, the source's example of an unrecognized one. -/
theorem test_decode_ctl_none_8_15 : decodeTableWord 16 0b0001010000000000 = some (.ctlNone815 false 2 false 0) := by
  decide
theorem test_decode_ctl_none_16_31 : decodeTableWord 16 0b0011111000000001 = some (.ctlNone1631 false 15 false 1) := by
  decide
/-- Register address 63. -/
theorem test_decode_ctl_none_32_63 : decodeTableWord 16 0b0111111000000000 = some (.ctlNone3263 false 31 false 0) := by
  decide
/-- `rx_len = 17`, then `tx_len = 17`: rejected by name (R76). -/
theorem test_decode_rejects_long :
    (decode dp (.evt (17 <<< 132))).toOption = none ∧ (decode dp (.evt (17 <<< 154))).toOption = none := by decide

/-! ## One step of each instruction -/

/-- The example of R100: from reset to `S*`. -/
theorem test_bits_example : (after (exec (.bits 0 bodyS) State.reset)).map State.frame = some frameS := by decide
/-- B5: different bit counts, tx's width wins. -/
theorem test_bits_widths : (after (exec (.bits 0 (body 0 100 10 0x3ff 5 0x1f)) State.reset)).map State.frame =
    some ⟨0x007fe, 0x0003e, true, 0, 100, true, 20, true, true⟩ := by decide
/-- C1: four records, and the finalize reset. -/
theorem test_cs_rise_records : after (exec (.csRise (body 1160 1161 0 0 0 0)) stateS) =
    some { stateS with
      frame := ⟨0, 0, false, 1000, 1160, true, 10, false, false⟩
      outBuf := [volt 1000 1160 2500 "2.500V", ctl 1000 1080 .regId 0 3 "03", ctl 1080 1120 .chb 0 10 "0a",
        ctl 1120 1160 .cha 0 5 "05"] } := by decide
/-- C8: the reserved range. -/
theorem test_cs_rise_reserved_range :
    why (exec (.csRise body0) { stateS with rangeSel := 3 }) = some .reservedRangeSel := by decide
/-- C2. -/
theorem test_cs_fall : after (exec (.csFall (body 1160 1161 0 0 0 0)) stateS) = some stateS := by decide
/-- C3. -/
theorem test_cs_stay_low : after (exec (.csStayLow (body 1160 1161 0 0 0 0)) stateS) = some stateS := by decide
/-- C4. -/
theorem test_cs_stay_high : after (exec (.csStayHigh (body 1160 1161 0 0 0 0)) stateS) = some stateS := by decide
/-- C5b: a null old level does not fire although the new level is 1. -/
theorem test_cs_first : after (exec (.csFirst true (body 1160 1161 0 0 0 0)) stateS) = some stateS := by decide
/-- C9. -/
theorem test_cs_rsvd : why (exec (.csRsvd true body0) stateS) = some .reservedCsOld := by decide
/-- `0x07A5`: bit 8 is ignored (95_test_vectors.md section 6). -/
theorem test_ctl_chsel : records (exec (decodeCtlw 0x07A5) (ctlState 1000 10)) =
    some [ctl 1000 1080 .regId 0 3 "03", ctl 1080 1120 .chb 0 10 "0a", ctl 1120 1160 .cha 0 5 "05"] := by decide
/-- `w = 0`: every span is empty, and the records are still emitted (R195). -/
theorem test_ctl_chsel_zero_width : records (exec (decodeCtlw 0x06A5) (ctlState 100 0)) =
    some [ctl 100 100 .regId 0 3 "03", ctl 100 100 .chb 0 10 "0a", ctl 100 100 .cha 0 5 "05"] := by decide
/-- `0x09E4`: quadrants 3, 2, 1, 0, with bit 8 set. -/
theorem test_ctl_range_a_lo : records (exec (decodeCtlw 0x09E4) (ctlState 2000 10)) =
    some [ctl 2000 2080 .rangeLabel 0 0 "Range A: Ch3-0", ctl 2080 2100 .quadRange 0 3 "10V",
      ctl 2100 2120 .quadRange 1 2 "5V", ctl 2120 2140 .quadRange 2 1 "2.5V",
      ctl 2140 2160 .quadRange 3 0 "10V"] := by decide
/-- The example of R189. -/
theorem test_ctl_range_a_hi : records (exec (decodeCtlw 0x0AFF) (ctlState 0 1)) =
    some [ctl 0 8 .rangeLabel 0 1 "Range A: Ch7-4", ctl 8 10 .quadRange 0 3 "10V", ctl 10 12 .quadRange 1 3 "10V",
      ctl 12 14 .quadRange 2 3 "10V", ctl 14 16 .quadRange 3 3 "10V"] := by decide
/-- The example of R190. -/
theorem test_ctl_range_b_lo : records (exec (decodeCtlw 0x0C55) (ctlState 0 2)) =
    some [ctl 0 16 .rangeLabel 0 2 "Range B: Ch3-0", ctl 16 20 .quadRange 0 1 "2.5V",
      ctl 20 24 .quadRange 1 1 "2.5V", ctl 24 28 .quadRange 2 1 "2.5V", ctl 28 32 .quadRange 3 1 "2.5V"] := by decide
/-- The example of R191. -/
theorem test_ctl_range_b_hi : records (exec (decodeCtlw 0x8FAA) (ctlState 100 0)) =
    some [ctl 100 100 .rangeLabel 0 3 "Range B: Ch7-4", ctl 100 100 .quadRange 0 2 "5V",
      ctl 100 100 .quadRange 1 2 "5V", ctl 100 100 .quadRange 2 2 "5V", ctl 100 100 .quadRange 3 2 "5V"] := by decide
theorem test_ctl_none_0_1 : after (exec (decodeCtlw 0x0200) stateS) = some stateS := by decide
theorem test_ctl_none_2 : after (exec (decodeCtlw 0x0400) stateS) = some stateS := by decide
theorem test_ctl_none_8_15 : after (exec (decodeCtlw 0x1E00) stateS) = some stateS := by decide
theorem test_ctl_none_16_31 : after (exec (decodeCtlw 0x2000) stateS) = some stateS := by decide
theorem test_ctl_none_32_63 : after (exec (decodeCtlw 0x7E00) stateS) = some stateS := by decide

/-- Rows of 95_test_vectors.md section 5, the rounding corners among them. -/
theorem test_millivolts : millivolts 3 5000 = 0 ∧ millivolts 4 5000 = 1 ∧ millivolts 3 10000 = 1 ∧
    millivolts 8087 5000 = 1234 ∧ millivolts 16383 2500 = 1250 ∧ millivolts 49151 10000 = 15000 ∧
    millivolts 65535 10000 = 20000 := by decide
theorem test_volt_text : voltText 0 = "0.000V" ∧ voltText 1234 = "1.234V" ∧ voltText 20000 = "20.000V" := by decide

/-- The event and control word a table row names run in the very next step. -/
theorem test_fetch_word_runs :
    after (step (State.reset.withFetchWord 8 0x3)) = some State.reset ∧
    (records (step (State.reset.withFetchWord 16 0x0600))).map List.length = some 3 := by decide

/-- Lines of the trace syntax (R83, R84). -/
theorem test_read_line :
    readLine dp "BITS 1000 1160 rx=16'h4000 tx=3'b101 ; a comment" =
      some (.bits 1000 1160 ⟨16, 0x4000⟩ ⟨3, 5⟩) ∧
    readLine dp "CS 0 0 null 1" = some (.cs 0 0 none true) ∧
    readLine dp ".range 2.5" = some (.range 1) ∧
    readLine dp "FRAME 5 9 rx=- tx=1'h1" = some (.frame 5 9 ⟨0, 0⟩ ⟨1, 1⟩) ∧
    readLine dp "BITS 0 0 rx=17'h0 tx=-" = none := by decide

/-! ## Witnesses: concrete states and operands that meet the hypotheses of the obligations -/

/-- An instruction of the default parameters, and one that only a wider `MAX_BITS` admits. -/
theorem test_hyp_DecodeEncodeRoundTrip : (Instr.bits 5 bodyS).wellFormed dp = true ∧
    (Instr.bits 5 (body 1 2 32 0xffffffff 17 0x1ffff)).wellFormed wide = true := by decide

/-- A control word, and the longest record of narrow parameters. -/
theorem test_hyp_EncodeDecodeRoundTrip : dp.legal = true ∧
    (decode dp (.ctlw 0x06A5)).toOption = some (.ctlChsel false false 0xa 0x5) ∧ small.legal = true ∧
    2 ^ 40 - 1 < 2 ^ evtBits small ∧ (decode small (.evt (2 ^ 40 - 1))).toOption.isSome = true := by decide

/-- The largest timestamps at the default parameters. -/
theorem test_hyp_OutputRecordFields :
    (volt (2 ^ 64 - 1) (2 ^ 64 - 1) 0 "0.000V").startTs < 2 ^ dp.tsWidth ∧
    (volt (2 ^ 64 - 1) (2 ^ 64 - 1) 0 "0.000V").endTs < 2 ^ dp.tsWidth := by decide

/-- Both sides of the bound, in each length field. -/
theorem test_hyp_DecodeRejectsExactlyLongBits :
    (17 <<< 132 % 2 = 0 ∧ 16 < 17 <<< 132 / 2 ^ (2 * dp.tsWidth + 4) % 64) ∧
    (17 <<< 154 % 2 = 0 ∧ 16 < 17 <<< 154 / 2 ^ (2 * dp.tsWidth + dp.maxBits + 10) % 64) ∧
    (decode dp (.evt (16 <<< 132 ||| 16 <<< 154))).toOption.isSome = true := by decide

/-- A header for each of the seven clauses, the ignored bits set. -/
theorem test_hyp_HeaderSelectsClass :
    (0xe#4 &&& 0b0001#4 = 0 ∧ (evtBody dp (0xe ||| 16 <<< 132)).lengthsLegal dp = true) ∧
    0x9#4 &&& 0b1111#4 = 0b1001#4 ∧ 0x3#4 &&& 0b1111#4 = 0b0011#4 ∧ 0x1#4 &&& 0b1111#4 = 0b0001#4 ∧
    0xb#4 &&& 0b1111#4 = 0b1011#4 ∧ 0xd#4 &&& 0b0111#4 = 0b0101#4 ∧ 0xf#4 &&& 0b0111#4 = 0b0111#4 := by decide

/-- The first and the last row. -/
theorem test_hyp_ControlRowsPartitionWords :
    ctlwTable[0]? = some (0x7C00#16, 0x0000#16) ∧ ctlwTable[9]? = some (0x4000#16, 0x4000#16) := by decide

/-- The machine in `S*` with samples waiting. -/
def waitingS (is : List PortIn) : State := { stateS with inputs := is }

/-- The word of `CS_RISE` with every other field 0. -/
def riseW : Nat := 9

theorem test_hyp_StepRunsDecodedEvent :
    (waitingS [sample true riseW false 2]).inputs = sample true riseW false 2 :: [] ∧
    (sample true riseW false 2).rst = false ∧ (sample true riseW false 2).evValid = true ∧
    (waitingS [sample true riseW false 2]).outBuf = [] ∧ (decode dp (.evt riseW)).toOption = some (.csRise body0) := by
  decide

theorem test_hyp_StepRefusesLongBits :
    (sample true (17 <<< 132) false 0).ev % 2 = 0 ∧
    16 < (sample true (17 <<< 132) false 0).ev / 2 ^ (2 * dp.tsWidth + 4) % 64 ∧
    (sample true (63 <<< 154) false 0).ev % 2 = 0 ∧
    16 < (sample true (63 <<< 154) false 0).ev / 2 ^ (2 * dp.tsWidth + dp.maxBits + 10) % 64 ∧
    (waitingS [sample true (17 <<< 132) false 0]).outBuf = [] := by decide

theorem test_hyp_RisingEdgeRunsControlWord :
    rangeMillivolts stateS.rangeSel = some 5000 ∧ stateS.frame.txPresent = true ∧ stateS.frame.rxPresent = true := by
  decide

theorem test_hyp_ResetCycleWins :
    (waitingS [resetSample]).inputs = resetSample :: [] ∧ resetSample.rst = true := by decide

/-- A no-op accepted in `S*`: it emits nothing. -/
theorem test_hyp_HandshakeOutputs :
    accepts stateS (sample true 3 false 0) = true ∧ after (acceptEvent 3 stateS) = some stateS ∧
    (sample false 0 false 0).rst = false := by decide

/-- The machine in `S*` with one record buffered. -/
def buffered (is : List PortIn) : State := { waitingS is with outBuf := [volt 1 2 0 "0.000V"] }

/-- A sink that is ready, and one that is not. -/
theorem test_hyp_BufferedRecordBlocksEvents :
    (sample true 3 true 0).rst = false ∧ (sample true 3 false 0).rst = false ∧
    (buffered [sample true 3 true 0]).outBuf = volt 1 2 0 "0.000V" :: [] := by decide

theorem test_hyp_IdleHoldsState :
    State.reset.inputs = [] ∧ (waitingS [sample false 9 true 1]).inputs = sample false 9 true 1 :: [] ∧
    (sample false 9 true 1).rst = false ∧ (sample false 9 true 1).evValid = false ∧
    (waitingS [sample false 9 true 1]).outBuf = [] := by decide

theorem test_hyp_EventAcceptedAfterDrain :
    (buffered [sample true riseW true 0, sample true riseW false 0]).inputs =
      [sample true riseW true 0] ++ sample true riseW false 0 :: [] ∧
    [sample true riseW true 0].length = (buffered []).outBuf.length ∧
    (∀ j ∈ [sample true riseW true 0], j.rst = false ∧ j.annReady = true) ∧
    (sample true riseW false 0).evValid = true ∧ (decode dp (.evt riseW)).toOption = some (.csRise body0) := by decide

theorem test_hyp_PortsRefineTransactions :
    (∀ i ∈ (waitingS [sample true riseW false 0]).inputs, i.rst = false) ∧
    ((after (runSteps 1 (waitingS [sample true riseW false 0]))).map fun t => t.outBuf.length) = some 4 := by decide

theorem test_hyp_LegalInputsNeverRefused :
    ∀ i ∈ (waitingS [resetSample, sample true riseW false 2, sample false 15 false 3]).inputs, legalInput dp i = true :=
  by decide

theorem test_hyp_BootFromAnyState : BootSequence dp [resetSample] [sample true 0xd false 0, sample true riseW true 0] :=
  ⟨by decide, by decide, by decide⟩

/-- A span that is not reversed, and one that is. -/
theorem test_hyp_BitsCompletes :
    bodyS.lengthsLegal dp = true ∧ (body 9 3 16 0 0 0).lengthsLegal dp = true ∧ (body 9 3 16 0 0 0).endTs < 9 := by
  decide

theorem test_hyp_LongBitsRefused :
    16 < (body 0 0 17 0 0 0).rxLen.toNat ∧ 16 < (body 0 0 0 0 63 0).txLen.toNat := by decide

theorem test_hyp_AccumulationFold : bodyS.lengthsLegal dp = true ∧ 0x08000 % 2 = 0 := by decide

/-- Each clause: an accumulator whose bit 0 is 0, and two events from cleared accumulators. -/
theorem test_hyp_FoldClosedForm :
    stateS.frame.accRx.getLsbD 0 = false ∧ (∀ ev ∈ [bodyS, bodyS], ev.lengthsLegal dp = true) ∧
    State.reset.frame.accRx = 0 ∧ State.reset.frame.accTx = 0 := by decide

theorem test_hyp_FlagsReflectLastEvent :
    (∀ ev ∈ [bodyS], ev.lengthsLegal dp = true) ∧ body0.lengthsLegal dp = true := by decide

theorem test_hyp_FrameSpansItsEvents : ∀ ev ∈ bodyS :: [body0], ev.lengthsLegal dp = true := by decide

/-- The three clauses, at a length of 1 and of 16, and an empty span. -/
theorem test_hyp_BitWidthOfLastDirection :
    ((body 0 3 16 0 1 0).lengthsLegal dp = true ∧ 0 < (body 0 3 16 0 1 0).txLen.toNat) ∧
    ((body 5 5 1 0 0 0).lengthsLegal dp = true ∧ (body 5 5 1 0 0 0).txLen.toNat = 0 ∧
      0 < (body 5 5 1 0 0 0).rxLen.toNat ∧ (body 5 5 1 0 0 0).startTs ≤ (body 5 5 1 0 0 0).endTs) ∧
    (body0.txLen.toNat = 0 ∧ body0.rxLen.toNat = 0) := by decide

theorem test_hyp_BitsNeverEmits :
    (after (exec (.bits 0 bodyS) stateS)).isSome = true ∧ stateS.frame.frameStartValid = true := by decide

/-- Two records that differ in `hdr[3:1]` and in the vector bits above a length of 1. -/
theorem test_hyp_IgnoredBitsOfBits :
    let w : Nat := packEvt dp 0x0 (body 1 2 1 0x0001 0 0x0000)
    let w' : Nat := packEvt dp 0xe (body 1 2 1 0xfff1 0 0x1234)
    w ≠ w' ∧ w % 2 = 0 ∧ w' % 2 = 0 ∧ (evtBody dp w).startTs = (evtBody dp w').startTs ∧
    (evtBody dp w).endTs = (evtBody dp w').endTs ∧ (evtBody dp w).rxLen = (evtBody dp w').rxLen ∧
    (evtBody dp w).txLen = (evtBody dp w').txLen ∧
    (∀ k, k < (evtBody dp w).rxLen.toNat → (evtBody dp w).rxVec.getLsbD k = (evtBody dp w').rxVec.getLsbD k) ∧
    (∀ k, k < (evtBody dp w).txLen.toNat → (evtBody dp w).txVec.getLsbD k = (evtBody dp w').txVec.getLsbD k) := by
  decide

theorem test_hyp_SixteenBitsRoundTrip :
    bodyS.lengthsLegal dp = true ∧ bodyS.rxLen = 16 ∧ bodyS.txLen = 16 ∧ State.reset.frame.accRx = 0 ∧
    State.reset.frame.accTx = 0 := by decide

/-- Nine tx bits in two events. -/
theorem test_hyp_ShortFrameUnrecognized :
    let evs : List (BitVec 3 × EvtBody) := [(7, body 0 4 0 0 4 0xf), (0, body 4 9 16 0 5 0x1f)]
    (∀ e ∈ evs, e.2.lengthsLegal dp = true) ∧ (evs.map fun e => e.2.txLen.toNat).sum < 10 ∧
    State.reset.frame.accTx = 0 := by decide

/-- Every defined transition but the rising edge. -/
theorem test_hyp_NonFiringIsNoOp :
    csLevels (.csFall body0) = some (some true, false) ∧ csLevels (.csStayLow body0) = some (some false, false) ∧
    csLevels (.csStayHigh body0) = some (some true, true) ∧ csLevels (.csFirst true body0) = some (none, true) ∧
    csLevels (.csFirst false body0) = some (none, false) := by decide

theorem test_hyp_ReservedCsOldRefused :
    0xf % 2 = 1 ∧ 0xf / 2 % 4 = 0b11 ∧ 0x7 / 2 % 4 = 0b11 := by decide

/-- `fs + 16 * w` at the largest value that is exact. -/
theorem test_hyp_RisingEdgeCompletes :
    rangeMillivolts (ctlState 15 0xfffffffffffffff).rangeSel = some 5000 ∧
    (ctlState 15 0xfffffffffffffff).frame.txPresent = true ∧
    spanExact dp (frameStart (ctlState 15 0xfffffffffffffff)) 0xfffffffffffffff = true := by decide

/-- `fs + 16 * w` at the smallest value that is not. -/
theorem test_hyp_RisingEdgeCompletesInexactSpans :
    rangeMillivolts (ctlState 16 0xfffffffffffffff).rangeSel = some 5000 ∧
    (ctlState 16 0xfffffffffffffff).frame.txPresent = true ∧
    spanExact dp (frameStart (ctlState 16 0xfffffffffffffff)) 0xfffffffffffffff = false := by decide

theorem test_hyp_ReservedRangeRefused : ({ stateS with rangeSel := 3 } : State).rangeSel = 0b11#2 := by decide

theorem test_hyp_CsChangeReadsHeaderOnly :
    0x3 % 2 = 1 ∧ 0x3 % 16 = 0xfffff3 % 16 := by decide

/-- Each clause: an idle machine, and a rising edge that fires in `S*` before an event. -/
theorem test_hyp_EmptyFrameThenFreshStart :
    (rangeMillivolts State.reset.rangeSel = some 5000 ∧ State.reset.frame.rxPresent = false ∧
      State.reset.frame.txPresent = false) ∧
    ((after (exec (.csRise body0) stateS)).isSome = true ∧ bodyS.lengthsLegal dp = true) := by decide

/-- Register addresses 2 and 8, next to the recognized ones. -/
theorem test_hyp_UnrecognizedWordKeepsVoltage :
    let s2 : State := withFrame { frameS with accTx := 0x0400#17 <<< 1 }
    let s8 : State := withFrame { frameS with accTx := 0x1000#17 <<< 1 }
    rangeMillivolts s2.rangeSel = some 5000 ∧ s2.frame.rxPresent = true ∧ s2.frame.txPresent = true ∧
    (ctlReg (correctedRaw s2.frame.accTx)).toNat < 3 ∧ 7 < (ctlReg (correctedRaw s8.frame.accTx)).toNat := by decide

theorem test_hyp_OnlyRisingEdgeEmits :
    ((after (acceptEvent riseW stateS)).map fun t => decide (t.outBuf = stateS.outBuf)) = some false := by decide

theorem test_hyp_AtMostSixRecords : (after (acceptEvent 0 stateS)).isSome = true := by decide

/-- A frame opened by a BITS event, and one closed by each of a rising edge and a reset. -/
theorem test_hyp_FrameOpensAndCloses :
    ((after (step { State.reset with inputs := [sample true 0 false 0] })).map fun t => t.frame.frameStartValid) =
      some true ∧
    ((after (step (waitingS [sample true riseW false 0]))).map fun t => t.frame.frameStartValid) = some false ∧
    ((after (step (waitingS [resetSample]))).map fun t => t.frame.frameStartValid) = some false := by decide

theorem test_hyp_VoltageBounds : rangeMillivolts 2 = some 10000 := by decide

theorem test_hyp_VoltageText : (20000 : Nat) ≤ 20000 ∧ voltText 20000 = voltText 20000 := by decide

theorem test_hyp_ChannelSelectRecords :
    spanExact dp (frameStart (ctlState 1000 10)) (ctlState 1000 10).frame.bitWidthTs = true := by decide

theorem test_hyp_RangeSelectRecords :
    spanExact dp (frameStart (ctlState 2000 0)) (ctlState 2000 0).frame.bitWidthTs = true := by decide

theorem test_hyp_InexactSpansKeepContent :
    spanExact dp (frameStart (ctlState 16 0xfffffffffffffff)) (ctlState 16 0xfffffffffffffff).frame.bitWidthTs = false ∧
    3 ≤ (ctlReg 0x0600).toNat ∧ (ctlReg 0x0FFF).toNat ≤ 7 := by decide

/-- Register addresses 3 and 7, and a width of 0. -/
theorem test_hyp_ControlSpansAdjacent :
    spanExact dp (frameStart (ctlState 100 0)) (ctlState 100 0).frame.bitWidthTs = true ∧
    (ctlState 100 0).frame.bitWidthTs = 0 ∧ (ctlReg 0x06A5).toNat = 3 ∧ (ctlReg 0x8FAA).toNat = 7 := by decide

/-- Two words that differ in the pads alone, in states that differ beside the frame's start and width. -/
theorem test_hyp_ControlOutputDependsOn :
    (0x06A5#16).extractLsb' 9 6 = (0x87A5#16).extractLsb' 9 6 ∧
    (0x06A5#16).extractLsb' 0 8 = (0x87A5#16).extractLsb' 0 8 ∧ frameStart stateS = frameStart (ctlState 1000 10) ∧
    stateS.params = (ctlState 1000 10).params ∧
    stateS.frame.bitWidthTs = (ctlState 1000 10).frame.bitWidthTs ∧
    spanExact dp (frameStart stateS) stateS.frame.bitWidthTs = true := by decide

/-- The reset state meets the invariant of the FrameState, with no frame open, and takes a BITS event. -/
theorem test_hyp_UnsetStartNeverRead :
    FrameInv dp State.reset.frame ∧ State.reset.frame.frameStartValid = false ∧
    (after (acceptEvent 0 State.reset)).isSome = true :=
  ⟨⟨by decide, by decide, by decide, by decide, by decide, by decide, by decide, by decide⟩, by decide, by decide⟩

/-- `S*` meets the invariant, and a rising edge takes it to a next state. -/
theorem test_hyp_StepKeepsInvariant :
    Inv (waitingS [sample true riseW false 0]) ∧ (after (step (waitingS [sample true riseW false 0]))).isSome = true :=
  ⟨⟨by decide, ⟨by decide, by decide, by decide, by decide, by decide, by decide, by decide, by decide⟩,
    by decide, by simp [waitingS, stateS, withFrame, State.reset],
    by simp [waitingS, stateS, withFrame, State.reset]⟩, by decide⟩

/-- `S*` meets the FrameState's invariants; an event that is not reversed, a rising edge with exact spans, and a
control word executed in the open frame. -/
theorem test_hyp_HazardFreeDrawsNothing :
    FrameInv dp stateS.frame ∧
    (hazardFree stateS (.bits 0 bodyS) ∧ (after (exec (.bits 0 bodyS) stateS)).isSome = true) ∧
    (hazardFree stateS (.csRise body0) ∧ (after (exec (.csRise body0) stateS)).isSome = true) ∧
    (hazardFree stateS (.ctlChsel false false 1 2) ∧
      (after (exec (.ctlChsel false false 1 2) stateS)).isSome = true) :=
  ⟨⟨by decide, by decide, by decide, by decide, by decide, by decide, by decide, by decide⟩,
    ⟨show 1000 ≤ 1160 by decide, by decide⟩,
    ⟨fun _ => show spanExact dp stateS.frame.frameStartTs stateS.frame.bitWidthTs = true by decide, by decide⟩,
    ⟨show stateS.frame.frameStartValid = true ∧ spanExact dp stateS.frame.frameStartTs stateS.frame.bitWidthTs = true by
      decide, by decide⟩⟩

theorem test_hyp_FrameTransaction :
    rangeMillivolts 0 = some 5000 ∧ State.reset.frame.frameStartValid = false ∧ State.reset.frame.accRx = 0 ∧
    State.reset.frame.accTx = 0 ∧ State.reset.outBuf = [] ∧ 1000 ≤ 1160 ∧ 1160 < 2 ^ dp.tsWidth ∧
    0 < (16#6).toNat ∧ (16#6).toNat ≤ dp.maxBits ∧ (0x4000#32).toNat < 2 ^ dp.maxBits ∧
    1000 + 16 * ((1160 - 1000) / (16#6).toNat) < 2 ^ dp.tsWidth := by decide

theorem test_hyp_TraceLinesStandForEvents : ∀ r' : RangeSel, TraceLine.csFall 7 ≠ .range r' := by decide

end Sys2Proof.Tests
end

/-! # Encodings (30_encoding.md): the event record -/

namespace Sys2Proof

/-! ## Fields of a packed record -/

/-- A field cut to its own width is itself. -/
theorem field_mod (w lo n : Nat) : field w lo n % 2 ^ n = field w lo n := Nat.mod_eq_of_lt (field_lt w lo n)

/-- A field on top of packed fields that spell the record above it. -/
theorem packFields_cons_field {w lo n m : Nat} {fs : List (Nat × Nat)} (h : packFields fs = field w (lo + n) m) :
    packFields ((n, field w lo n) :: fs) = field w lo (n + m) := by
  rw [packFields_cons, h, field_mod, field_add]

/-- The field of no bits. -/
theorem packFields_nil_eq_field (w lo : Nat) : packFields [] = field w lo 0 := by
  simp [packFields, field, Nat.mod_one]

/-- The field of a record at the place the fields below it leave it, where the value has the field's width. -/
theorem field_of_packFields {w lo n v : Nat} (below above : List (Nat × Nat))
    (hw : w = packFields (below ++ (n, v) :: above)) (hlo : lo = (below.map Prod.fst).sum) (hv : v < 2 ^ n) :
    field w lo n = v := by
  rw [hw, hlo, field_packFields, Nat.mod_eq_of_lt hv]

/-! ## The record's header -/

theorem evtHdr_eq (w : Nat) : evtHdr w = BitVec.ofNat 4 w := by
  apply BitVec.eq_of_toNat_eq
  simp [evtHdr, field]

/-- The header of a record is the one it was packed with (R77). -/
@[simp] theorem evtHdr_packEvt (p : Config.Params) (h : BitVec 4) (ev : EvtBody) : evtHdr (packEvt p h ev) = h := by
  rw [evtHdr_eq, Laws.RowBits.packEvt_hdr]

/-- The kind bit is the record's lowest bit (R71, R77). -/
theorem hdrIsCsChange_evtHdr (w : Nat) : hdrIsCsChange (evtHdr w) = true ↔ w % 2 = 1 := by
  rw [evtHdr_eq, hdrIsCsChange, BitVec.getLsbD_ofNat]
  simp [Nat.testBit_zero]

/-! ## The record's body -/

/-- A body has room in its record exactly when its four wide fields are numbers of their widths (R77). -/
theorem EvtBody.fits_iff {p : Config.Params} {ev : EvtBody} :
    ev.fits p = true ↔ ev.startTs < 2 ^ p.tsWidth ∧ ev.endTs < 2 ^ p.tsWidth ∧
      ev.rxVec.toNat < 2 ^ p.maxBits ∧ ev.txVec.toNat < 2 ^ p.maxBits := by
  simp [EvtBody.fits, Config.Params.isTs, and_assoc]

theorem EvtBody.lengthsLegal_iff {p : Config.Params} {ev : EvtBody} :
    ev.lengthsLegal p = true ↔ ev.rxLen.toNat ≤ p.maxBits ∧ ev.txLen.toNat ≤ p.maxBits := by
  simp [EvtBody.lengthsLegal]

/-- The length fields of a record, as numbers, at the positions of R77. -/
theorem evtBody_rxLen_toNat (p : Config.Params) (w : Nat) :
    (evtBody p w).rxLen.toNat = w / 2 ^ (2 * p.tsWidth + 4) % 64 := by
  simp [evtBody, field]

theorem evtBody_txLen_toNat (p : Config.Params) (w : Nat) :
    (evtBody p w).txLen.toNat = w / 2 ^ (2 * p.tsWidth + p.maxBits + 10) % 64 := by
  simp [evtBody, field]

/-- A field of `MAX_BITS` bits is held by a vector, for a legal `MAX_BITS` (R8). -/
theorem toNat_ofNat_field {p : Config.Params} (hp : p.legal = true) (w lo : Nat) :
    (BitVec.ofNat 32 (field w lo p.maxBits)).toNat = field w lo p.maxBits := by
  have hmax : p.maxBits ≤ 32 := by
    simp only [Config.Params.legal, Config.maxMaxBits, Bool.and_eq_true, decide_eq_true_eq] at hp
    exact hp.2
  rw [BitVec.toNat_ofNat]
  exact Nat.mod_eq_of_lt ((field_lt _ _ _).trans_le (Nat.pow_le_pow_right (by decide) hmax))

/-- What the decoder reads has room in a record (R77). -/
theorem evtBody_fits {p : Config.Params} (hp : p.legal = true) (w : Nat) : (evtBody p w).fits p = true := by
  refine EvtBody.fits_iff.mpr ⟨field_lt _ _ _, field_lt _ _ _, ?_, ?_⟩
  · exact (toNat_ofNat_field hp _ _).trans_lt (field_lt _ _ _)
  · exact (toNat_ofNat_field hp _ _).trans_lt (field_lt _ _ _)

/-- A body that has room in its record is read back from it (R77). -/
theorem evtBody_packEvt {p : Config.Params} {ev : EvtBody} (h : BitVec 4) (hfit : ev.fits p = true) :
    evtBody p (packEvt p h ev) = ev := by
  obtain ⟨hs, he, hr, ht⟩ := EvtBody.fits_iff.mp hfit
  have hstart : field (packEvt p h ev) 4 p.tsWidth = ev.startTs :=
    field_of_packFields [_] _ rfl (by simp) hs
  have hend : field (packEvt p h ev) (p.tsWidth + 4) p.tsWidth = ev.endTs :=
    field_of_packFields [_, _] _ rfl (by simp +arith) he
  have hrl : field (packEvt p h ev) (2 * p.tsWidth + 4) 6 = ev.rxLen.toNat :=
    field_of_packFields [_, _, _] _ rfl (by simp +arith) ev.rxLen.isLt
  have hrv : field (packEvt p h ev) (2 * p.tsWidth + 10) p.maxBits = ev.rxVec.toNat :=
    field_of_packFields [_, _, _, _] _ rfl (by simp +arith) hr
  have htl : field (packEvt p h ev) (2 * p.tsWidth + p.maxBits + 10) 6 = ev.txLen.toNat :=
    field_of_packFields [_, _, _, _, _] _ rfl (by simp +arith) ev.txLen.isLt
  have htv : field (packEvt p h ev) (2 * p.tsWidth + p.maxBits + 16) p.maxBits = ev.txVec.toNat :=
    field_of_packFields [_, _, _, _, _, _] _ rfl (by simp +arith) ht
  simp [evtBody, hstart, hend, hrl, hrv, htl, htv]

/-- A record of its width is packed again from its header and its body (R77). -/
theorem packEvt_evtBody {p : Config.Params} {w : Nat} (hp : p.legal = true) (hw : w < 2 ^ evtBits p) :
    packEvt p (evtHdr w) (evtBody p w) = w := by
  have hlen (lo : Nat) : (BitVec.ofNat 6 (field w lo 6)).toNat = field w lo 6 := by
    rw [BitVec.toNat_ofNat, field_mod]
  have hhdr : (evtHdr w).toNat = field w 0 4 := by rw [evtHdr, BitVec.toNat_ofNat, field_mod]
  have hpos : p.tsWidth + 4 = 0 + 4 + p.tsWidth ∧ 2 * p.tsWidth + 4 = 0 + 4 + p.tsWidth + p.tsWidth ∧
      2 * p.tsWidth + 10 = 0 + 4 + p.tsWidth + p.tsWidth + 6 ∧
      2 * p.tsWidth + p.maxBits + 10 = 0 + 4 + p.tsWidth + p.tsWidth + 6 + p.maxBits ∧
      2 * p.tsWidth + p.maxBits + 16 = 0 + 4 + p.tsWidth + p.tsWidth + 6 + p.maxBits + 6 := by omega
  obtain ⟨hend, hrl, hrv, htl, htv⟩ := hpos
  calc packEvt p (evtHdr w) (evtBody p w)
      = field w 0 (4 + (p.tsWidth + (p.tsWidth + (6 + (p.maxBits + (6 + (p.maxBits + 0))))))) := by
        simp only [packEvt, evtBody, hlen, hhdr, toNat_ofNat_field hp, hend, hrl, hrv, htl, htv]
        iterate 7 refine packFields_cons_field ?_
        exact packFields_nil_eq_field _ _
    _ = w % 2 ^ evtBits p := by
        simp only [field, Nat.pow_zero, Nat.div_one]
        congr 2
        simp only [evtBits]
        omega
    _ = w := Nat.mod_eq_of_lt hw

/-! ## The decoder of an event record -/

/-- A CS_CHANGE record is decoded by its two level fields (R71). -/
theorem decodeEvt_csChange {p : Config.Params} {w : Nat} (h : hdrIsCsChange (evtHdr w) = true) :
    decodeEvt p w = .ok (csClass (hdrCsOld (evtHdr w)) (hdrCsNew (evtHdr w)) (evtBody p w)) := by
  simp [decodeEvt, h]

/-- A BITS record with legal lengths is decoded (R71, R76). -/
theorem decodeEvt_bits {p : Config.Params} {w : Nat} (h : hdrIsCsChange (evtHdr w) = false)
    (hlen : (evtBody p w).lengthsLegal p = true) :
    decodeEvt p w = .ok (.bits ((evtHdr w).extractLsb' 1 3) (evtBody p w)) := by
  simp [decodeEvt, h, hlen]

/-- What an event record decodes to, by the branches of R71 and R76. -/
theorem decodeEvt_eq_ok {p : Config.Params} {w : Nat} {i : Instr} (h : decodeEvt p w = .ok i) :
    (hdrIsCsChange (evtHdr w) = true ∧ i = csClass (hdrCsOld (evtHdr w)) (hdrCsNew (evtHdr w)) (evtBody p w)) ∨
    (hdrIsCsChange (evtHdr w) = false ∧ (evtBody p w).lengthsLegal p = true ∧
      i = .bits ((evtHdr w).extractLsb' 1 3) (evtBody p w)) := by
  unfold decodeEvt at h
  split at h
  · next hk => exact .inl ⟨hk, (Except.ok.inj h).symm⟩
  · next hk =>
    split at h
    · next hlen => exact .inr ⟨by simpa using hk, hlen, (Except.ok.inj h).symm⟩
    · cases h

/-- A record is rejected exactly when it is a BITS record with a reserved bit count (R76). -/
theorem decodeEvt_eq_error_iff {p : Config.Params} {w : Nat} {e : DecodeError} :
    decodeEvt p w = .error e ↔ hdrIsCsChange (evtHdr w) = false ∧ (evtBody p w).lengthsLegal p = false := by
  unfold decodeEvt
  cases e
  cases hdrIsCsChange (evtHdr w) <;> cases (evtBody p w).lengthsLegal p <;> simp

/-- A CS_CHANGE event packed with its header is read as the class of its levels (R71, R72). -/
theorem decodeEvt_csHdr {p : Config.Params} {ev : EvtBody} (old : BitVec 2) (new : Bool) (hfit : ev.fits p = true) :
    decodeEvt p (packEvt p (csHdr old new) ev) = .ok (csClass old new ev) := by
  have hkind : ∀ old new, hdrIsCsChange (csHdr old new) = true := by decide
  have hold : ∀ old new, hdrCsOld (csHdr old new) = old := by decide
  have hnew : ∀ old new, hdrCsNew (csHdr old new) = new := by decide
  rw [decodeEvt_csChange (by rw [evtHdr_packEvt, hkind]), evtHdr_packEvt, hold, hnew, evtBody_packEvt _ hfit]

/-- A BITS event with legal lengths packed with any pad is read back (R71, R74). -/
theorem decodeEvt_bitsHdr {p : Config.Params} {ev : EvtBody} (pad : BitVec 3) (hfit : ev.fits p = true)
    (hlen : ev.lengthsLegal p = true) : decodeEvt p (packEvt p (pad ++ 0#1) ev) = .ok (.bits pad ev) := by
  have hkind : ∀ pad : BitVec 3, hdrIsCsChange (pad ++ 0#1) = false := by decide
  have hpad : ∀ pad : BitVec 3, (pad ++ 0#1).extractLsb' 1 3 = pad := by decide
  rw [decodeEvt_bits (by rw [evtHdr_packEvt, hkind]) (by rw [evtBody_packEvt _ hfit, hlen]), evtHdr_packEvt, hpad,
    evtBody_packEvt _ hfit]

/-- The class of two levels is packed with those levels (R71, R72). -/
theorem encode_csClass (p : Config.Params) (old : BitVec 2) (new : Bool) (ev : EvtBody) :
    encode p (csClass old new ev) = .evt (packEvt p (csHdr old new) ev) := by
  have hold : old = 0 ∨ old = 1 ∨ old = 2 ∨ old = 3 := by revert old; decide
  rcases hold with rfl | rfl | rfl | rfl <;> cases new <;> rfl

/-- A CS_CHANGE event is well formed when its body has room in the record (R70, R130). -/
theorem csClass_wellFormed (p : Config.Params) (old : BitVec 2) (new : Bool) (ev : EvtBody) :
    (csClass old new ev).wellFormed p = ev.fits p := by
  unfold csClass
  repeat' split
  all_goals rfl

/-- A record of its width is the word of what it decodes to, which is well formed (R71, R77). -/
theorem encode_of_decodeEvt {p : Config.Params} {w : Nat} {i : Instr} (hp : p.legal = true) (hw : w < 2 ^ evtBits p)
    (h : decodeEvt p w = .ok i) : i.wellFormed p = true ∧ encode p i = .evt w := by
  have hcs : ∀ h : BitVec 4, hdrIsCsChange h = true → csHdr (hdrCsOld h) (hdrCsNew h) = h := by decide
  have hbits : ∀ h : BitVec 4, hdrIsCsChange h = false → h.extractLsb' 1 3 ++ 0#1 = h := by decide
  rcases decodeEvt_eq_ok h with ⟨hk, rfl⟩ | ⟨hk, hlen, rfl⟩
  · rw [csClass_wellFormed, encode_csClass, hcs _ hk, packEvt_evtBody hp hw]
    exact ⟨evtBody_fits hp w, rfl⟩
  · rw [encode, hbits _ hk, packEvt_evtBody hp hw]
    exact ⟨by simp [Instr.wellFormed, evtBody_fits hp w, hlen], rfl⟩

/-- Settles O3: the kind bit and the two length fields are read at the positions of R77. -/
theorem decodeRejectsExactlyLongBits : Obligations.DecodeRejectsExactlyLongBits := by
  intro p w
  have hkind := hdrIsCsChange_evtHdr w
  calc decode p (.evt w) = .error .bitCountAboveMaxBits
      ↔ hdrIsCsChange (evtHdr w) = false ∧ (evtBody p w).lengthsLegal p = false := decodeEvt_eq_error_iff
    _ ↔ w % 2 = 0 ∧ (p.maxBits < w / 2 ^ (2 * p.tsWidth + 4) % 64 ∨
          p.maxBits < w / 2 ^ (2 * p.tsWidth + p.maxBits + 10) % 64) := by
        rw [← evtBody_rxLen_toNat, ← evtBody_txLen_toNat]
        refine and_congr ?_ ?_
        · rw [← Bool.not_eq_true, hkind]; omega
        · rw [← Bool.not_eq_true, EvtBody.lengthsLegal_iff]; omega

end Sys2Proof

/-! # Encodings (30_encoding.md): the control word, and the round trips of both formats -/

namespace Sys2Proof

/-! ## The fields of a packed control word (R78) -/

section fields
variable (p15 p8 : Bool) (reg : BitVec 6) (payload : BitVec 8)

@[simp] theorem ctlReg_packCtlw : ctlReg (packCtlw p15 reg p8 payload) = reg := by
  refine BitVec.eq_of_getLsbD_eq fun k hk => ?_
  rw [ctlReg, BitVec.getLsbD_extractLsb', Laws.RowBits.packCtlw_getLsbD _ _ _ _ _ (by omega)]
  grind

@[simp] theorem ctlPayload_packCtlw : ctlPayload (packCtlw p15 reg p8 payload) = payload := by
  refine BitVec.eq_of_getLsbD_eq fun k hk => ?_
  rw [ctlPayload, BitVec.getLsbD_extractLsb', Laws.RowBits.packCtlw_getLsbD _ _ _ _ _ (by omega)]
  grind

@[simp] theorem ctlPad15_packCtlw : ctlPad15 (packCtlw p15 reg p8 payload) = p15 := by
  rw [ctlPad15, Laws.RowBits.packCtlw_getLsbD _ _ _ _ _ (by decide)]
  rfl

@[simp] theorem ctlPad8_packCtlw : ctlPad8 (packCtlw p15 reg p8 payload) = p8 := by
  rw [ctlPad8, Laws.RowBits.packCtlw_getLsbD _ _ _ _ _ (by decide)]
  rfl

end fields

/-- Every control word is its four fields (R78). -/
theorem packCtlw_fields (raw : Raw) :
    packCtlw (ctlPad15 raw) (ctlReg raw) (ctlPad8 raw) (ctlPayload raw) = raw := by
  refine BitVec.eq_of_getLsbD_eq fun k hk => ?_
  rw [Laws.RowBits.packCtlw_getLsbD _ _ _ _ k hk]
  simp only [ctlPad15, ctlReg, ctlPad8, ctlPayload, BitVec.getLsbD_extractLsb']
  grind

/-- Bits of the register address, read from the whole word (R78). -/
theorem extractLsb'_ctlReg (raw : Raw) {n : Nat} (hn : n ≤ 6) :
    (ctlReg raw).extractLsb' 0 n = raw.extractLsb' 9 n := by
  refine BitVec.eq_of_getLsbD_eq fun k hk => ?_
  simp only [ctlReg, BitVec.getLsbD_extractLsb']
  grind

/-- Bits of the payload, read from the whole word (R78, R79). -/
theorem extractLsb'_ctlPayload (raw : Raw) {lo n : Nat} (hn : lo + n ≤ 8) :
    (ctlPayload raw).extractLsb' lo n = raw.extractLsb' lo n := by
  refine BitVec.eq_of_getLsbD_eq fun k hk => ?_
  simp only [ctlPayload, BitVec.getLsbD_extractLsb']
  grind

/-- The quadrant fields of a payload (R79). -/
def payloadQuads (payload : BitVec 8) : Quads :=
  { rng0 := payload.extractLsb' 6 2, rng1 := payload.extractLsb' 4 2
    rng2 := payload.extractLsb' 2 2, rng3 := payload.extractLsb' 0 2 }

theorem ctlQuads_eq (raw : Raw) : ctlQuads raw = payloadQuads (ctlPayload raw) := by
  simp [ctlQuads, ctlRng, payloadQuads, extractLsb'_ctlPayload]

theorem packQuads_payloadQuads (payload : BitVec 8) : packQuads (payloadQuads payload) = payload := by
  revert payload; decide

theorem payloadQuads_packQuads (q : Quads) : payloadQuads (packQuads q) = q := by
  obtain ⟨a, b, c, d⟩ := q
  revert a b c d
  decide

/-! ## The decoder by register address (R80, R183) -/

/-- A mask within the register-address field tests the register address (R80). -/
theorem and_mask_iff {mask pattern : Raw} (raw : Raw) (m p : BitVec 6) (hm : mask = packCtlw false m false 0)
    (hp : pattern = packCtlw false p false 0) : raw &&& mask = pattern ↔ ctlReg raw &&& m = p := by
  have hreg : ctlReg (raw &&& mask) = ctlReg raw &&& m := by
    rw [← ctlReg_packCtlw false false m 0, ← hm]
    exact BitVec.extractLsb'_and
  constructor
  · intro h
    rw [← hreg, h, hp, ctlReg_packCtlw]
  · intro h
    subst h
    rw [hm, hp]
    refine BitVec.eq_of_getLsbD_eq fun k hk => ?_
    simp only [BitVec.getLsbD_and, Laws.RowBits.packCtlw_getLsbD _ _ _ _ k hk, ctlReg, BitVec.getLsbD_extractLsb']
    grind

/-- The instruction of a control word, by the number of its register address (R80). -/
theorem decodeCtlw_eq (raw : Raw) : decodeCtlw raw =
    if (ctlReg raw).toNat < 2 then
      .ctlNone01 (ctlPad15 raw) ((ctlReg raw).extractLsb' 0 1) (ctlPad8 raw) (ctlPayload raw)
    else if (ctlReg raw).toNat = 2 then .ctlNone2 (ctlPad15 raw) (ctlPad8 raw) (ctlPayload raw)
    else if (ctlReg raw).toNat = 3 then .ctlChsel (ctlPad15 raw) (ctlPad8 raw) (ctlChb raw) (ctlCha raw)
    else if (ctlReg raw).toNat = 4 then .ctlRangeALo (ctlPad15 raw) (ctlPad8 raw) (ctlQuads raw)
    else if (ctlReg raw).toNat = 5 then .ctlRangeAHi (ctlPad15 raw) (ctlPad8 raw) (ctlQuads raw)
    else if (ctlReg raw).toNat = 6 then .ctlRangeBLo (ctlPad15 raw) (ctlPad8 raw) (ctlQuads raw)
    else if (ctlReg raw).toNat = 7 then .ctlRangeBHi (ctlPad15 raw) (ctlPad8 raw) (ctlQuads raw)
    else if 8 ≤ (ctlReg raw).toNat ∧ (ctlReg raw).toNat < 16 then
      .ctlNone815 (ctlPad15 raw) ((ctlReg raw).extractLsb' 0 3) (ctlPad8 raw) (ctlPayload raw)
    else if 16 ≤ (ctlReg raw).toNat ∧ (ctlReg raw).toNat < 32 then
      .ctlNone1631 (ctlPad15 raw) ((ctlReg raw).extractLsb' 0 4) (ctlPad8 raw) (ctlPayload raw)
    else .ctlNone3263 (ctlPad15 raw) ((ctlReg raw).extractLsb' 0 5) (ctlPad8 raw) (ctlPayload raw) := by
  have h01 : ∀ r : BitVec 6, r &&& 0x3E = 0 ↔ r.toNat < 2 := by decide
  have hall : ∀ r : BitVec 6, r &&& 0x3F = r := by decide
  have heq (p : BitVec 6) : ctlReg raw &&& 0x3F = p ↔ (ctlReg raw).toNat = p.toNat := by rw [hall, BitVec.toNat_inj]
  have h815 : ∀ r : BitVec 6, r &&& 0x38 = 8 ↔ 8 ≤ r.toNat ∧ r.toNat < 16 := by decide
  have h1631 : ∀ r : BitVec 6, r &&& 0x30 = 16 ↔ 16 ≤ r.toNat ∧ r.toNat < 32 := by decide
  unfold decodeCtlw
  simp only [and_mask_iff raw 0x3E 0 (mask := 0x7C00#16) (pattern := 0x0000#16) (by decide) (by decide),
    and_mask_iff raw 0x3F 2 (mask := 0x7E00#16) (pattern := 0x0400#16) (by decide) (by decide),
    and_mask_iff raw 0x3F 3 (mask := 0x7E00#16) (pattern := 0x0600#16) (by decide) (by decide),
    and_mask_iff raw 0x3F 4 (mask := 0x7E00#16) (pattern := 0x0800#16) (by decide) (by decide),
    and_mask_iff raw 0x3F 5 (mask := 0x7E00#16) (pattern := 0x0A00#16) (by decide) (by decide),
    and_mask_iff raw 0x3F 6 (mask := 0x7E00#16) (pattern := 0x0C00#16) (by decide) (by decide),
    and_mask_iff raw 0x3F 7 (mask := 0x7E00#16) (pattern := 0x0E00#16) (by decide) (by decide),
    and_mask_iff raw 0x38 8 (mask := 0x7000#16) (pattern := 0x1000#16) (by decide) (by decide),
    and_mask_iff raw 0x30 16 (mask := 0x6000#16) (pattern := 0x2000#16) (by decide) (by decide),
    h01, heq, h815, h1631, extractLsb'_ctlReg raw (n := 1) (by decide), extractLsb'_ctlReg raw (n := 3) (by decide),
    extractLsb'_ctlReg raw (n := 4) (by decide), extractLsb'_ctlReg raw (n := 5) (by decide)]
  rfl

/-! ## Round trips -/

/-- A control word is the word of what it decodes to, so no bit of it is dropped (R78 to R80). -/
theorem encode_decodeCtlw (p : Config.Params) (raw : Raw) : encode p (decodeCtlw raw) = .ctlw raw := by
  have h01 : ∀ r : BitVec 6, r.toNat < 2 → 0#5 ++ r.extractLsb' 0 1 = r := by decide
  have hreg (r k : BitVec 6) (h : r.toNat = k.toNat) : k = r := (BitVec.eq_of_toNat_eq h).symm
  have h815 : ∀ r : BitVec 6, 8 ≤ r.toNat ∧ r.toNat < 16 → 1#3 ++ r.extractLsb' 0 3 = r := by decide
  have h1631 : ∀ r : BitVec 6, 16 ≤ r.toNat ∧ r.toNat < 32 → 1#2 ++ r.extractLsb' 0 4 = r := by decide
  have h3263 : ∀ r : BitVec 6, 32 ≤ r.toNat → 1#1 ++ r.extractLsb' 0 5 = r := by decide
  have hch : ctlChb raw ++ ctlCha raw = ctlPayload raw := by
    have hsplit : ∀ b : BitVec 8, b.extractLsb' 4 4 ++ b.extractLsb' 0 4 = b := by decide
    rw [ctlChb, ctlCha, ← extractLsb'_ctlPayload raw (by decide), ← extractLsb'_ctlPayload raw (by decide), hsplit]
  have hq : packQuads (ctlQuads raw) = ctlPayload raw := by rw [ctlQuads_eq, packQuads_payloadQuads]
  have hword : ∀ r : BitVec 6, r = ctlReg raw →
      EncodedWord.ctlw (packCtlw (ctlPad15 raw) r (ctlPad8 raw) (ctlPayload raw)) = .ctlw raw := by
    rintro r rfl
    rw [packCtlw_fields]
  rw [decodeCtlw_eq]
  split_ifs with r01 r2 r3 r4 r5 r6 r7 r815 r1631 <;> simp only [encode, hch, hq] <;> apply hword
  · exact h01 _ r01
  · exact hreg _ _ r2
  · exact hreg _ _ r3
  · exact hreg _ _ r4
  · exact hreg _ _ r5
  · exact hreg _ _ r6
  · exact hreg _ _ r7
  · exact h815 _ r815
  · exact h1631 _ r1631
  · exact h3263 _ (by omega)

theorem decodeCtlw_wellFormed (p : Config.Params) (raw : Raw) : (decodeCtlw raw).wellFormed p = true := by
  rw [decodeCtlw_eq]
  split_ifs <;> rfl

/-- A control word packed from its fields is read by its register address (R80). -/
theorem decodeCtlw_packCtlw (p15 p8 : Bool) (reg : BitVec 6) (payload : BitVec 8) :
    decodeCtlw (packCtlw p15 reg p8 payload) =
      if reg.toNat < 2 then .ctlNone01 p15 (reg.extractLsb' 0 1) p8 payload
      else if reg.toNat = 2 then .ctlNone2 p15 p8 payload
      else if reg.toNat = 3 then .ctlChsel p15 p8 (payload.extractLsb' 4 4) (payload.extractLsb' 0 4)
      else if reg.toNat = 4 then .ctlRangeALo p15 p8 (payloadQuads payload)
      else if reg.toNat = 5 then .ctlRangeAHi p15 p8 (payloadQuads payload)
      else if reg.toNat = 6 then .ctlRangeBLo p15 p8 (payloadQuads payload)
      else if reg.toNat = 7 then .ctlRangeBHi p15 p8 (payloadQuads payload)
      else if 8 ≤ reg.toNat ∧ reg.toNat < 16 then .ctlNone815 p15 (reg.extractLsb' 0 3) p8 payload
      else if 16 ≤ reg.toNat ∧ reg.toNat < 32 then .ctlNone1631 p15 (reg.extractLsb' 0 4) p8 payload
      else .ctlNone3263 p15 (reg.extractLsb' 0 5) p8 payload := by
  have hchb (raw : Raw) : ctlChb raw = (ctlPayload raw).extractLsb' 4 4 :=
    (extractLsb'_ctlPayload raw (by decide)).symm
  have hcha (raw : Raw) : ctlCha raw = (ctlPayload raw).extractLsb' 0 4 :=
    (extractLsb'_ctlPayload raw (by decide)).symm
  simp only [decodeCtlw_eq, hchb, hcha, ctlQuads_eq, ctlReg_packCtlw, ctlPad15_packCtlw, ctlPad8_packCtlw,
    ctlPayload_packCtlw]

/-- Settles O1: an event is its header and its body, and a control word its register address and payload. -/
theorem decodeEncodeRoundTrip : Obligations.DecodeEncodeRoundTrip := by
  intro p i hwf
  cases i with
  | bits pad ev =>
    have ⟨hfit, hlen⟩ : ev.fits p = true ∧ ev.lengthsLegal p = true := by simpa [Instr.wellFormed] using hwf
    exact decodeEvt_bitsHdr pad hfit hlen
  | csRise ev => exact decodeEvt_csHdr _ _ hwf
  | csFall ev => exact decodeEvt_csHdr _ _ hwf
  | csStayLow ev => exact decodeEvt_csHdr _ _ hwf
  | csStayHigh ev => exact decodeEvt_csHdr _ _ hwf
  | csFirst new ev => exact decodeEvt_csHdr _ _ hwf
  | csRsvd new ev => exact decodeEvt_csHdr _ _ hwf
  | ctlNone01 p15 reg p8 payload =>
    have hreg : ∀ r : BitVec 1, (0#5 ++ r).toNat < 2 ∧ (0#5 ++ r).extractLsb' 0 1 = r := by decide
    simp [decode, encode, decodeCtlw_packCtlw, hreg]
  | ctlNone2 p15 p8 payload => simp [decode, encode, decodeCtlw_packCtlw]
  | ctlChsel p15 p8 chb cha =>
    have hpay : ∀ b a : BitVec 4, (b ++ a).extractLsb' 4 4 = b ∧ (b ++ a).extractLsb' 0 4 = a := by decide
    simp [decode, encode, decodeCtlw_packCtlw, hpay]
  | ctlRangeALo p15 p8 q => simp [decode, encode, decodeCtlw_packCtlw, payloadQuads_packQuads]
  | ctlRangeAHi p15 p8 q => simp [decode, encode, decodeCtlw_packCtlw, payloadQuads_packQuads]
  | ctlRangeBLo p15 p8 q => simp [decode, encode, decodeCtlw_packCtlw, payloadQuads_packQuads]
  | ctlRangeBHi p15 p8 q => simp [decode, encode, decodeCtlw_packCtlw, payloadQuads_packQuads]
  | ctlNone815 p15 reg p8 payload =>
    have hreg : ∀ r : BitVec 3,
        (8 ≤ (1#3 ++ r).toNat ∧ (1#3 ++ r).toNat < 16) ∧ (1#3 ++ r).extractLsb' 0 3 = r := by decide
    obtain ⟨hrange, hext⟩ := hreg reg
    simp (disch := omega) only [decode, encode, decodeCtlw_packCtlw, hext, if_pos, if_neg]
  | ctlNone1631 p15 reg p8 payload =>
    have hreg : ∀ r : BitVec 4,
        (16 ≤ (1#2 ++ r).toNat ∧ (1#2 ++ r).toNat < 32) ∧ (1#2 ++ r).extractLsb' 0 4 = r := by decide
    obtain ⟨hrange, hext⟩ := hreg reg
    simp (disch := omega) only [decode, encode, decodeCtlw_packCtlw, hext, if_pos, if_neg]
  | ctlNone3263 p15 reg p8 payload =>
    have hreg : ∀ r : BitVec 5, 32 ≤ (1#1 ++ r).toNat ∧ (1#1 ++ r).extractLsb' 0 5 = r := by decide
    obtain ⟨hrange, hext⟩ := hreg reg
    simp (disch := omega) only [decode, encode, decodeCtlw_packCtlw, hext, if_neg]

/-- Settles O2: an event record is packed again from its header and body, a control word from its four fields. -/
theorem encodeDecodeRoundTrip : Obligations.EncodeDecodeRoundTrip := by
  intro p w i hp hw h
  cases w with
  | evt v => exact encode_of_decodeEvt hp (hw v rfl) h
  | ctlw raw =>
    obtain rfl : decodeCtlw raw = i := Except.ok.inj h
    exact ⟨decodeCtlw_wellFormed p raw, encode_decodeCtlw p raw⟩

end Sys2Proof

/-! # The operations in closed form: the fold, the control decode and the finalize sequence -/

namespace Sys2Proof.Machine

/-! ## The accumulation fold (R104, R108, R109) -/

theorem foldBit_getLsbD (a : Acc) (b : Bool) {k : Nat} (hk : k < 17) :
    (foldBit a b).getLsbD k = (decide (1 ≤ k) && (a.getLsbD (k - 1) || (decide (k = 1) && b))) := by
  simp only [foldBit, BitVec.getLsbD_shiftLeft, BitVec.getLsbD_or, BitVec.getLsbD_setWidth, BitVec.getLsbD_ofBool]
  grind

/-- Bit `k` of a fold: an element of the list above bit 0, and the old accumulator above the list (R108). -/
theorem foldBits_getLsbD (a : Acc) (s : List Bool) {k : Nat} (hk : k < 17) :
    (foldBits a s).getLsbD k =
      (decide (1 ≤ k) && s.getD (k - 1) false || decide (s.length ≤ k) && a.getLsbD (k - s.length)) := by
  induction s generalizing k with
  | nil => simp
  | cons b s ih =>
    rw [foldBits_cons, foldBit_getLsbD _ _ hk, ih (by omega)]
    match k with
    | 0 => simp
    | 1 => cases s <;> simp [Bool.or_comm]
    | k + 2 => simp

/-- A fold keeps bit 0 clear (R109). -/
theorem foldBits_low {a : Acc} (h : a.getLsbD 0 = false) (s : List Bool) : (foldBits a s).getLsbD 0 = false := by
  rw [foldBits_getLsbD a s (by decide), show 0 - s.length = 0 from Nat.zero_sub _, h]
  simp

theorem bitSeq_getD (len : Len) (vec : Vec) (k : Nat) :
    (bitSeq len vec).getD k false = (decide (k < len.toNat) && vec.getLsbD k) := by
  rw [bitSeq, List.getD_eq_getElem?_getD, List.getElem?_map]
  by_cases hk : k < len.toNat
  · simp [hk]
  · simp [hk]

/-- A direction's bits, folded into a cleared accumulator, are handed to the decoder as the number they spell, of
more than 16 the low ones (R75, R104, R138). -/
theorem correctedRaw_foldBits_zero (len : Len) (vec : Vec) :
    (correctedRaw (foldBits 0#17 (bitSeq len vec))).toNat = vec.toNat % 2 ^ len.toNat % 2 ^ 16 := by
  rw [← BitVec.toNat_ofNat]
  refine congrArg BitVec.toNat (BitVec.eq_of_getLsbD_eq fun k hk => ?_)
  rw [correctedRaw, BitVec.getLsbD_extractLsb', foldBits_getLsbD _ _ (by omega), BitVec.getLsbD_zero,
    BitVec.getLsbD_ofNat, Nat.testBit_mod_two_pow, Nat.add_sub_cancel_left, bitSeq_getD]
  simp [hk, BitVec.getLsbD]

/-! ## The fields of a control word as numbers (R78, R79) -/

section fields
variable (raw : Raw)

theorem ctlReg_toNat : (ctlReg raw).toNat = raw.toNat / 512 % 64 := by
  simp [ctlReg, BitVec.extractLsb'_toNat, Nat.shiftRight_eq_div_pow]

theorem ctlChb_toNat : (ctlChb raw).toNat = raw.toNat / 16 % 16 := by
  simp [ctlChb, BitVec.extractLsb'_toNat, Nat.shiftRight_eq_div_pow]

theorem ctlCha_toNat : (ctlCha raw).toNat = raw.toNat % 16 := by
  simp [ctlCha, BitVec.extractLsb'_toNat]

theorem ctlRng_toNat (i : Nat) : (ctlRng raw i).toNat = raw.toNat / 2 ^ (6 - 2 * i) % 4 := by
  simp [ctlRng, BitVec.extractLsb'_toNat, Nat.shiftRight_eq_div_pow]

end fields

/-! ## The control decode (R180 to R193) -/

/-- The records of a channel-select word (R184 to R186). -/
def chselRecords (s : State) (chb cha : BitVec 4) : List Annotation :=
  [controlRecord s 0 8 .regId 0 3 (hex2 3),
   controlRecord s 8 12 .chb 0 (chb.setWidth 16) (hex2 (chb.setWidth 8)),
   controlRecord s 12 16 .cha 0 (cha.setWidth 16) (hex2 (cha.setWidth 8))]

/-- The records a control decode appends, by the register address (R183). -/
def controlRecords (s : State) (raw : Raw) : List Annotation :=
  if (ctlReg raw).toNat = 3 then chselRecords s (ctlChb raw) (ctlCha raw)
  else if 4 ≤ (ctlReg raw).toNat ∧ (ctlReg raw).toNat ≤ 7 then
    rangeRecords s (BitVec.ofNat 2 ((ctlReg raw).toNat - 4)) (ctlQuads raw)
  else []

/-- The draws a control decode takes: none for an unrecognized address. -/
def controlDraws (s : State) (raw : Raw) : Nat :=
  if 3 ≤ (ctlReg raw).toNat ∧ (ctlReg raw).toNat ≤ 7 then spanDraws s else 0

/-- A control decode appends its records, counts its draws, and writes nothing else (R180). -/
theorem controlDecode_eq (raw : Raw) (s : State) : controlDecode raw s =
    .next { s with outBuf := s.outBuf ++ controlRecords s raw, draws := s.draws + controlDraws s raw } := by
  simp only [controlDecode]
  split_ifs with r3 r4 r5 r6 r7
  · simp only [controlRecords, controlDraws, r3]; rfl
  · simp only [controlRecords, controlDraws, r4]; rfl
  · simp only [controlRecords, controlDraws, r5]; rfl
  · simp only [controlRecords, controlDraws, r6]; rfl
  · simp only [controlRecords, controlDraws, r7]; rfl
  · have hnone : controlNone raw s = .next s := by
      simp only [controlNone, execCtlNone01, execCtlNone2, execCtlNone815, execCtlNone1631, execCtlNone3263, ite_self]
    simp (disch := omega) only [hnone, controlRecords, controlDraws, if_neg, List.append_nil, Nat.add_zero]

section exact
variable {s : State}

/-- With exact spans a control record is the one of R181's arithmetic. -/
theorem controlRecord_exact (h : spanExact s.params (frameStart s) s.frame.bitWidthTs = true) (a b : Nat)
    (kind : AnnKind) (aux : BitVec 2) (value : BitVec 16) (text : String) :
    controlRecord s a b kind aux value text =
      exactRecord (frameStart s) s.frame.bitWidthTs a b kind aux.toNat value.toNat text := by
  simp [controlRecord, exactRecord, spanStart, spanEnd, cellTs, h]

theorem spanDraws_exact (h : spanExact s.params (frameStart s) s.frame.bitWidthTs = true) : spanDraws s = 0 := by
  simp [spanDraws, h]

theorem controlDraws_exact (h : spanExact s.params (frameStart s) s.frame.bitWidthTs = true) (raw : Raw) :
    controlDraws s raw = 0 := by
  simp [controlDraws, spanDraws_exact h]

theorem chselRecords_exact (h : spanExact s.params (frameStart s) s.frame.bitWidthTs = true) (chb cha : BitVec 4) :
    chselRecords s chb cha =
      [exactRecord (frameStart s) s.frame.bitWidthTs 0 8 .regId 0 3 "03",
       exactRecord (frameStart s) s.frame.bitWidthTs 8 12 .chb 0 chb.toNat (hex2 (chb.setWidth 8)),
       exactRecord (frameStart s) s.frame.bitWidthTs 12 16 .cha 0 cha.toNat (hex2 (cha.setWidth 8))] := by
  have hid : hex2 3 = "03" := by decide
  simp only [chselRecords, controlRecord_exact h, hid, BitVec.toNat_setWidth_of_le (show 4 ≤ 16 by decide)]
  rfl

theorem rangeRecords_exact (h : spanExact s.params (frameStart s) s.frame.bitWidthTs = true) (k : BitVec 2)
    (q : Quads) : rangeRecords s k q =
      [exactRecord (frameStart s) s.frame.bitWidthTs 0 8 .rangeLabel 0 k.toNat (rangeLabel k),
       exactRecord (frameStart s) s.frame.bitWidthTs 8 10 .quadRange 0 q.rng0.toNat (rangeDisplay q.rng0),
       exactRecord (frameStart s) s.frame.bitWidthTs 10 12 .quadRange 1 q.rng1.toNat (rangeDisplay q.rng1),
       exactRecord (frameStart s) s.frame.bitWidthTs 12 14 .quadRange 2 q.rng2.toNat (rangeDisplay q.rng2),
       exactRecord (frameStart s) s.frame.bitWidthTs 14 16 .quadRange 3 q.rng3.toNat (rangeDisplay q.rng3)] := by
  have hrange : List.range 4 = [0, 1, 2, 3] := rfl
  simp only [rangeRecords, quadRecord, hrange, List.map, controlRecord_exact h,
    BitVec.toNat_setWidth_of_le (show 2 ≤ 16 by decide)]
  rfl

/-- With exact spans a control decode outputs the records of R182 to R193. -/
theorem controlRecords_exact (h : spanExact s.params (frameStart s) s.frame.bitWidthTs = true) (raw : Raw) :
    controlRecords s raw = controlOutput (frameStart s) s.frame.bitWidthTs raw.toNat := by
  simp only [controlRecords, controlOutput, ← ctlReg_toNat]
  split_ifs with hch hrange
  · simp only [chselRecords_exact h, ctlChb_toNat, ctlCha_toNat, ← BitVec.ofNat_toNat]
  · have hk : (BitVec.ofNat 2 ((ctlReg raw).toNat - 4)).toNat = (ctlReg raw).toNat - 4 := by
      rw [BitVec.toNat_ofNat]
      omega
    have hq (i : Nat) : ctlRng raw i = BitVec.ofNat 2 (raw.toNat / 2 ^ (6 - 2 * i) % 4) := by
      rw [← ctlRng_toNat, BitVec.ofNat_toNat, BitVec.setWidth_eq]
    simp only [rangeRecords_exact h, hk, ctlQuads, hq, BitVec.toNat_ofNat, Nat.reducePow, Nat.mod_mod, Nat.reduceMul,
      Nat.reduceSub, Nat.div_one]
  · rfl

end exact

/-! ## The finalize sequence (R137 to R140) -/

/-- With a legal range the finalize sequence appends the voltage record where rx bits are present, then the control
records where tx bits are, clears the frame and writes nothing else. -/
theorem finalize_eq {s : State} {rm : Nat} (h : rangeMillivolts s.rangeSel = some rm) : finalize s =
    .next { s with
      frame := clearFrame s.frame
      outBuf := s.outBuf ++ (if s.frame.rxPresent then [voltageRecord rm s] else []) ++
        (if s.frame.txPresent then controlRecords s (correctedRaw s.frame.accTx) else [])
      draws := s.draws + if s.frame.txPresent then controlDraws s (correctedRaw s.frame.accTx) else 0 } := by
  simp only [finalize, h, finalizeWith, finalizeVoltage_eq, finalizeControl, emit_frame]
  split
  · rw [controlDecode_eq]; rfl
  · simp [emit, finalizeReset]

theorem voltageRecord_eq (rm : Nat) (s : State) : voltageRecord rm s =
    voltageOutput (frameStart s) s.frame.frameEndTs (correctedRaw s.frame.accRx).toNat rm := rfl

/-- With a legal range and exact spans the finalize sequence outputs the records of R160 and R182 to R193. -/
theorem finalize_exact {s : State} {rm : Nat} (h : rangeMillivolts s.rangeSel = some rm)
    (hspan : s.frame.txPresent = true → spanExact s.params (frameStart s) s.frame.bitWidthTs = true) : finalize s =
    .next { s with
      frame := clearFrame s.frame
      outBuf := s.outBuf ++
        (if s.frame.rxPresent then
          [voltageOutput (frameStart s) s.frame.frameEndTs (correctedRaw s.frame.accRx).toNat rm] else []) ++
        (if s.frame.txPresent then
          controlOutput (frameStart s) s.frame.bitWidthTs (correctedRaw s.frame.accTx).toNat else []) } := by
  rw [finalize_eq h, voltageRecord_eq]
  cases htx : s.frame.txPresent with
  | false => rfl
  | true =>
    rw [controlRecords_exact (hspan htx), controlDraws_exact (hspan htx)]
    rfl

/-! ## Settled: the channel-select instruction and the refused bit counts -/

/-- Settles O47: the records are exact, and the texts are checked for the sixteen values of a field. -/
theorem channelSelectRecords : Obligations.ChannelSelectRecords := by
  intro p15 p8 chb cha s h hex
  have htext : ∀ c : BitVec 4, hex2 (c.setWidth 8) = hex.getD c.toNat "" := by decide
  calc exec (.ctlChsel p15 p8 chb cha) s
      = .next { s with outBuf := s.outBuf ++ chselRecords s chb cha, draws := s.draws + spanDraws s } := rfl
    _ = _ := by rw [spanDraws_exact h, chselRecords_exact h, htext, htext]; rfl

/-- Settles O22. -/
theorem longBitsRefused : Obligations.LongBitsRefused := by
  intro pad ev s hlong
  have hlen : ev.lengthsLegal s.params = false := by
    rw [← Bool.not_eq_true, EvtBody.lengthsLegal_iff]
    omega
  refine ⟨?_, rfl⟩
  simp [exec, execBits, hlen]

end Sys2Proof.Machine

/-! # An accepted event and a cycle: what they can do, what they keep -/

namespace Sys2Proof.Machine

/-! ## An accepted event (R13, R254) -/

/-- The step of a CS_CHANGE event, by its levels: the reserved encoding is refused, the rising edge finalizes, and
every other transition is a no-op (R73, R131 to R136). -/
theorem exec_csClass (old : BitVec 2) (new : Bool) (ev : EvtBody) (s : State) :
    exec (csClass old new ev) s =
      if old = 0b11#2 then .refused .reservedCsOld
      else if old = 0b00#2 ∧ new = true then finalize s
      else .next s := by
  have hold : old = 0 ∨ old = 1 ∨ old = 2 ∨ old = 3 := by revert old; decide
  rcases hold with rfl | rfl | rfl | rfl <;> cases new <;> rfl

/-- The rising edge is the one header `0b1001` (R71, R131). -/
theorem evtHdr_rise {w : Nat} (hk : hdrIsCsChange (evtHdr w) = true) (hold : hdrCsOld (evtHdr w) = 0b00#2)
    (hnew : hdrCsNew (evtHdr w) = true) : w % 16 = 0b1001 := by
  have hrise : ∀ h : BitVec 4, hdrIsCsChange h = true → hdrCsOld h = 0b00#2 → hdrCsNew h = true → h = 0b1001#4 := by
    decide
  have h := congrArg BitVec.toNat (hrise _ hk hold hnew)
  simpa [evtHdr_eq] using h

theorem acceptEvent_of_ok {w : Nat} {s : State} {i : Instr} (h : decode s.params (.evt w) = .ok i) :
    acceptEvent w s = exec i s := by
  simp only [acceptEvent, h]

theorem acceptEvent_of_error {w : Nat} {s : State} {e : DecodeError} (h : decode s.params (.evt w) = .error e) :
    acceptEvent w s = .refused (refusalOf e) := by
  simp only [acceptEvent, h]

/-- An accepted event that completes is a BITS event of legal lengths, a rising edge, or a no-op. -/
theorem acceptEvent_cases {w : Nat} {s t : State} (h : acceptEvent w s = .next t) :
    (w % 2 = 0 ∧ (evtBody s.params w).lengthsLegal s.params = true ∧ t = accumulate (evtBody s.params w) s) ∨
    (w % 16 = 0b1001 ∧ finalize s = .next t) ∨
    (w % 2 = 1 ∧ t = s) := by
  cases hdec : decode s.params (.evt w) with
  | error e => rw [acceptEvent_of_error hdec] at h; cases h
  | ok i =>
    rw [acceptEvent_of_ok hdec] at h
    rcases decodeEvt_eq_ok hdec with ⟨hk, rfl⟩ | ⟨hk, hlen, rfl⟩
    · rw [exec_csClass] at h
      split_ifs at h with _ hrise
      · exact .inr (.inl ⟨evtHdr_rise hk hrise.1 hrise.2, h⟩)
      · exact .inr (.inr ⟨(hdrIsCsChange_evtHdr w).mp hk, (Host.Outcome.next.inj h).symm⟩)
    · rw [← Bool.not_eq_true, hdrIsCsChange_evtHdr] at hk
      simp only [exec, execBits, hlen, if_true, Host.Outcome.next.injEq] at h
      exact .inl ⟨by omega, hlen, h.symm⟩

/-- An accepted event that completes writes the frame, appends at most six records and draws: nothing else is
written (R9, R13). -/
theorem acceptEvent_writes {w : Nat} {s t : State} (h : acceptEvent w s = .next t) :
    ∃ f rs k, rs.length ≤ Config.maxAnn ∧
      t = { s with frame := f, outBuf := s.outBuf ++ rs, draws := s.draws + k } := by
  rcases acceptEvent_cases h with ⟨_, _, rfl⟩ | ⟨_, hf⟩ | ⟨_, rfl⟩
  · exact ⟨_, [], widthDraws _, Nat.zero_le _, by rw [List.append_nil]; rfl⟩
  · rcases finalize_cases s with ⟨_, hr⟩ | ⟨rs, k, hrs, hn⟩
    · rw [hr] at hf; cases hf
    · rw [hn] at hf
      exact ⟨_, rs, k, hrs, (Host.Outcome.next.inj hf).symm⟩
  · exact ⟨_, [], 0, Nat.zero_le _, by rw [List.append_nil]; rfl⟩

/-- A frame in both directions whose control word is a range select (R188). -/
def sixRecordsState : State :=
  { State.reset with
    frame := { FrameState.reset 0 with
      accTx := 0x0800#16 ++ 0#1, frameStartValid := true, bitWidthValid := true
      rxPresent := true, txPresent := true } }

/-- Settles O42: no event appends more than the finalize sequence, and a range-select word beside rx bits appends
six. -/
theorem atMostSixRecords : Obligations.AtMostSixRecords := by
  refine ⟨fun w s t h => ?_, 9, sixRecordsState, _, rfl, rfl⟩
  obtain ⟨f, rs, k, hrs, rfl⟩ := acceptEvent_writes h
  exact ⟨rs, rfl, hrs⟩

/-! ## The samples still to come are no input of an event (R258) -/

theorem finalize_withInputs (s : State) (is : List PortIn) :
    finalize { s with inputs := is } = andThen (finalize s) fun t => .next { t with inputs := is } := by
  cases h : rangeMillivolts s.rangeSel with
  | none => simp [finalize, h]
  | some rm =>
    rw [finalize_eq h, finalize_eq (s := { s with inputs := is }) h]
    rfl

theorem exec_withInputs (i : Instr) (s : State) (is : List PortIn) :
    exec i { s with inputs := is } = andThen (exec i s) fun t => .next { t with inputs := is } := by
  cases i with
  | bits pad ev =>
    simp only [exec, execBits]
    split <;> rfl
  | csRise ev => exact finalize_withInputs s is
  | _ => rfl

theorem acceptEvent_withInputs (w : Nat) (s : State) (is : List PortIn) :
    acceptEvent w { s with inputs := is } = andThen (acceptEvent w s) fun t => .next { t with inputs := is } := by
  cases hdec : decode s.params (.evt w) with
  | error e =>
    rw [acceptEvent_of_error hdec, acceptEvent_of_error (s := { s with inputs := is }) hdec]
    rfl
  | ok i =>
    rw [acceptEvent_of_ok hdec, acceptEvent_of_ok (s := { s with inputs := is }) hdec]
    exact exec_withInputs i s is

/-! ## The step that accepts an event -/

/-- With `rst` low, an event offered and the buffer empty, the step is that of the event (R254, R255). -/
theorem step_of_accepted {s : State} {i : PortIn} {rest : List PortIn} (hin : s.inputs = i :: rest)
    (hrst : i.rst = false) (hvalid : i.evValid = true) (hbuf : s.outBuf = []) :
    step s = acceptEvent i.ev (loadPins i rest s) := by
  rw [step_of_input hin]
  simp [cycleWith, accepts, evReady, hrst, hvalid, hbuf]

/-- Settles O9. -/
theorem stepRunsDecodedEvent : Obligations.StepRunsDecodedEvent := by
  intro s i rest ins hin hrst hvalid hbuf hdec
  rw [step_of_accepted hin hrst hvalid hbuf, acceptEvent_of_ok (s := loadPins i rest s) hdec]
  rfl

/-- Settles O10: the decoder rejects the record (O3), and its error is the refusal. -/
theorem stepRefusesLongBits : Obligations.StepRefusesLongBits := by
  intro s i rest hin hrst hvalid hbuf heven hlong
  have hdec : decode s.params (.evt i.ev) = .error .bitCountAboveMaxBits :=
    (decodeRejectsExactlyLongBits s.params i.ev).mpr ⟨heven, hlong⟩
  rw [step_of_accepted hin hrst hvalid hbuf, acceptEvent_of_error (s := loadPins i rest s) hdec]
  rfl

/-! ## The port level refines the transaction level (R39, R56, R57) -/

/-- The block's view is its parameters, its registers, its counter of draws and the records in order. -/
theorem blockView_eq_iff {s v : State} : blockView s = blockView v ↔
    s.params = v.params ∧ s.frame = v.frame ∧ s.delivered ++ s.outBuf = v.delivered ++ v.outBuf ∧
      s.draws = v.draws := by
  simp [blockView, drain]

theorem acceptedIn_of_accepts {s t : State} {i : PortIn} {rest : List PortIn} (n : Nat) (hin : s.inputs = i :: rest)
    (hacc : accepts s i = true) (hstep : step s = .next t) :
    acceptedIn (n + 1) s = (i.rangeSel, i.ev) :: acceptedIn n t := by
  simp [acceptedIn, hin, hacc, hstep]

theorem acceptedIn_of_not_accepts {s t : State} {i : PortIn} {rest : List PortIn} (n : Nat)
    (hin : s.inputs = i :: rest) (hacc : accepts s i = false) (hstep : step s = .next t) :
    acceptedIn (n + 1) s = acceptedIn n t := by
  simp [acceptedIn, hin, hacc, hstep]

theorem acceptedIn_of_no_input {s : State} (n : Nat) (hin : s.inputs = []) :
    acceptedIn (n + 1) s = acceptedIn n s := by
  simp [acceptedIn, hin, step_of_no_input hin]

/-- An event accepted at the ports is a transaction of every state with the same view and an empty buffer. -/
theorem transact_of_acceptEvent {w : Nat} {i : PortIn} {rest : List PortIn} {s t v : State}
    (h : acceptEvent w (loadPins i rest s) = .next t) (hs : s.outBuf = []) (hv : v.outBuf = [])
    (hview : blockView v = blockView s) :
    ∃ u, transact i.rangeSel w v = .next u ∧ u.outBuf = [] ∧ blockView u = blockView t := by
  obtain ⟨hparams, hframe, hrecords, hdraws⟩ := blockView_eq_iff.mp hview
  have hpins : { v with rangeSel := i.rangeSel } = { loadPins i rest s with inputs := v.inputs } := by
    rw [hs, hv, List.append_nil, List.append_nil] at hrecords
    cases s; cases v
    simp_all [loadPins]
  refine ⟨drain { t with inputs := v.inputs }, ?_, rfl, ?_⟩
  · rw [transact, hpins, acceptEvent_withInputs, h]
    rfl
  · simp [blockView_eq_iff]

/-- Without a reset, a cycle takes its sample and either accepts the event or keeps the view: a record taken moves
from the buffer to the sink (R254, R255). -/
theorem step_accepts_or_keeps_view {s t : State} {i : PortIn} {rest : List PortIn} (hin : s.inputs = i :: rest)
    (hlow : i.rst = false) (hstep : step s = .next t) :
    t.inputs = rest ∧
      ((accepts s i = true ∧ s.outBuf = [] ∧ acceptEvent i.ev (loadPins i rest s) = .next t) ∨
        (accepts s i = false ∧ blockView t = blockView s)) := by
  rw [step_of_input hin] at hstep
  have hcases := cycleWith_cases i (loadPins i rest s)
  rw [loadPins_outBuf] at hcases
  rcases hcases with ⟨hi, -⟩ | ⟨-, hvalid, hbuf, hc⟩ | ⟨-, -, hbuf, hc⟩ | ⟨-, hvalid, -, hc⟩
  · rw [hlow] at hi; cases hi
  · rw [hc] at hstep
    obtain ⟨f, rs, k, -, rfl⟩ := acceptEvent_writes hstep
    exact ⟨rfl, .inl ⟨by simp [accepts, evReady, hvalid, hlow, hbuf], hbuf, hstep⟩⟩
  · obtain ⟨r, rs, hrs⟩ := List.exists_cons_of_ne_nil hbuf
    rw [hc, takeRecord_cons (s := loadPins i rest s) hrs, Host.Outcome.next.injEq] at hstep
    subst hstep
    exact ⟨rfl, .inr ⟨by simp [accepts, evReady, hrs], by simp [blockView_eq_iff, hrs]⟩⟩
  · rw [hc, Host.Outcome.next.injEq] at hstep
    subst hstep
    refine ⟨rfl, .inr ⟨?_, blockView_eq_iff.mpr ⟨rfl, rfl, rfl, rfl⟩⟩⟩
    cases hb : s.outBuf with
    | nil => simp [accepts, hvalid hb]
    | cons r rs => simp [accepts, evReady, hb]

/-- The simulation: from a state with the same view and an empty buffer, the accepted events as transactions lead to
the view that a run of cycles leaves. -/
theorem runSteps_simulated {n : Nat} {s t v : State} (hrst : ∀ i ∈ s.inputs, i.rst = false)
    (hrun : runSteps n s = .next t) (hv : v.outBuf = []) (hview : blockView v = blockView s) :
    ∃ u, transactAll (acceptedIn n s) v = .next u ∧ blockView u = blockView t := by
  induction n generalizing s v with
  | zero =>
    cases hrun
    exact ⟨v, rfl, hview⟩
  | succ n ih =>
    rw [runSteps_succ, andThen_eq_next] at hrun
    obtain ⟨s₁, hstep, hrun⟩ := hrun
    cases hin : s.inputs with
    | nil =>
      obtain rfl : s = s₁ := by rw [step_of_no_input hin] at hstep; exact Host.Outcome.next.inj hstep
      rw [acceptedIn_of_no_input n hin]
      exact ih hrst hrun hv hview
    | cons i rest =>
      obtain ⟨hlow, hrest⟩ : i.rst = false ∧ ∀ j ∈ rest, j.rst = false := by simpa [hin] using hrst
      obtain ⟨rfl, hcase⟩ := step_accepts_or_keeps_view hin hlow hstep
      rcases hcase with ⟨hacc, hbuf, hev⟩ | ⟨hacc, hkeep⟩
      · obtain ⟨u, hu, hubuf, huview⟩ := transact_of_acceptEvent hev hbuf hv hview
        rw [acceptedIn_of_accepts n hin hacc hstep, transactAll, hu, andThen_next]
        exact ih hrest hrun hubuf huview
      · rw [acceptedIn_of_not_accepts n hin hacc hstep]
        exact ih hrest hrun hv (hview.trans hkeep.symm)

/-- Settles O17: the view itself is a state the simulation starts from. -/
theorem portsRefineTransactions : Obligations.PortsRefineTransactions := by
  intro n s t hrst hrun
  exact runSteps_simulated hrst hrun rfl (by simp [blockView])

end Sys2Proof.Machine

/-! # The invariant (R5, R33, R34, R36 to R39, R109) -/

namespace Sys2Proof.Machine

theorem isTs_iff {p : Config.Params} {n : Nat} : p.isTs n = true ↔ n < 2 ^ p.tsWidth := decide_eq_true_iff

/-- A free value cut to `TS_WIDTH` bits is a timestamp. -/
theorem isTs_mod (p : Config.Params) (n : Nat) : p.isTs (n % 2 ^ p.tsWidth) = true :=
  isTs_iff.mpr (Nat.mod_lt _ (Nat.two_pow_pos _))

/-! ## The FrameState -/

/-- A bit width is a timestamp: the quotient of an event's span, or a free value (R105, R106). -/
theorem isTs_cellWidth {p : Config.Params} {ev : EvtBody} (hend : p.isTs ev.endTs = true) (n draws : Nat) :
    p.isTs (cellWidth p ev n draws) = true := by
  unfold cellWidth
  split
  · exact isTs_mod p _
  · rw [isTs_iff] at hend ⊢
    exact ((Nat.div_le_self _ n).trans (Nat.sub_le _ _)).trans_lt hend

/-- A BITS event whose timestamps are of their width keeps the FrameState's invariant. -/
theorem FrameInv.accumulateFrame {p : Config.Params} {f : FrameState} {ev : EvtBody} (h : FrameInv p f)
    (hstart : p.isTs ev.startTs = true) (hend : p.isTs ev.endTs = true) (draws : Nat) :
    FrameInv p (accumulateFrame p ev draws f) := by
  rw [accumulateFrame_eq]
  refine ⟨fun _ => rfl, fun htx => ?_, nofun, ?_, ?_, ?_, hend, ?_⟩
  · simp [show presence ev.txLen = true from htx]
  · dsimp only; split <;> [exact foldBits_low h.rx_low _; exact h.rx_low]
  · dsimp only; split <;> [exact foldBits_low h.tx_low _; exact h.tx_low]
  · dsimp only; split <;> [exact h.start_ts; exact hstart]
  · dsimp only; split_ifs <;> [exact isTs_cellWidth hend _ _; exact isTs_cellWidth hend _ _; exact h.width_ts]

/-- The finalize reset keeps the FrameState's invariant (R140, R143). -/
theorem FrameInv.clearFrame {p : Config.Params} {f : FrameState} (h : FrameInv p f) : FrameInv p (clearFrame f) :=
  ⟨by simp, by simp, fun _ => ⟨rfl, rfl⟩, by simp, by simp, h.start_ts, h.end_ts, h.width_ts⟩

/-- The reset values meet the FrameState's invariant (R35). -/
theorem frameInv_reset {p : Config.Params} {v : Nat} (hv : p.isTs v = true) : FrameInv p (FrameState.reset v) :=
  have hzero : p.isTs 0 = true := isTs_iff.mpr (Nat.two_pow_pos _)
  ⟨by simp [FrameState.reset], by simp [FrameState.reset], fun _ => ⟨rfl, rfl⟩, by simp [FrameState.reset],
    by simp [FrameState.reset], hv, hzero, hzero⟩

/-! ## The records -/

/-- A read of `frame_start_ts` gives a timestamp, set or not (R23). -/
theorem isTs_frameStart {s : State} (h : FrameInv s.params s.frame) : s.params.isTs (frameStart s) = true := by
  unfold frameStart
  split
  · exact h.start_ts
  · exact isTs_mod _ _

/-- A cell within the frame starts at a timestamp (R181). -/
theorem isTs_spanStart (p : Config.Params) (fs w draws : Nat) {a : Nat} (ha : a ≤ 16) :
    p.isTs (spanStart p fs w draws a) = true := by
  unfold spanStart
  split
  · next h =>
    have hle : w * a ≤ w * 16 := Nat.mul_le_mul_left w ha
    rw [spanExact, isTs_iff] at h
    rw [isTs_iff, cellTs]
    omega
  · exact isTs_mod p _

/-- A cell within the frame ends at a timestamp (R181). -/
theorem isTs_spanEnd (p : Config.Params) (fs w draws : Nat) {b : Nat} (hb : b ≤ 16) :
    p.isTs (spanEnd p fs w draws b) = true := by
  unfold spanEnd
  split
  · next h =>
    have hle : w * b ≤ w * 16 := Nat.mul_le_mul_left w hb
    rw [spanExact, isTs_iff] at h
    rw [isTs_iff, cellTs]
    omega
  · exact isTs_mod p _

/-- A control record over cells of the frame is well formed when its kind is a control kind and its text the
rendering. -/
theorem recordOk_controlRecord (s : State) {a b : Nat} {kind : AnnKind} {aux : BitVec 2} {value : BitVec 16}
    {text : String} (ha : a ≤ 16) (hb : b ≤ 16) (hkind : kindClass kind = .control)
    (htext : renderText kind aux value = some text) :
    RecordOk s.params (controlRecord s a b kind aux value text) :=
  ⟨isTs_spanStart _ _ _ _ ha, isTs_spanEnd _ _ _ _ hb, hkind.symm, htext⟩

theorem recordOk_chselRecords (s : State) (chb cha : BitVec 4) :
    ∀ r ∈ chselRecords s chb cha, RecordOk s.params r := by
  have hchb : ∀ c : BitVec 4, renderText .chb 0 (c.setWidth 16) = some (hex2 (c.setWidth 8)) := by decide
  have hcha : ∀ c : BitVec 4, renderText .cha 0 (c.setWidth 16) = some (hex2 (c.setWidth 8)) := by decide
  simp only [chselRecords, List.forall_mem_cons, List.not_mem_nil, false_imp_iff, implies_true, and_true]
  exact ⟨recordOk_controlRecord s (by decide) (by decide) rfl (by decide),
    recordOk_controlRecord s (by decide) (by decide) rfl (hchb chb),
    recordOk_controlRecord s (by decide) (by decide) rfl (hcha cha)⟩

theorem recordOk_rangeRecords (s : State) (k : BitVec 2) (q : Quads) :
    ∀ r ∈ rangeRecords s k q, RecordOk s.params r := by
  have hlabel : ∀ k : BitVec 2, renderText .rangeLabel 0 (k.setWidth 16) = some (rangeLabel k) := by decide
  have hquad : ∀ i v : BitVec 2, renderText .quadRange i (v.setWidth 16) = some (rangeDisplay v) := by decide
  rw [rangeRecords, List.forall_mem_cons]
  refine ⟨recordOk_controlRecord s (by decide) (by decide) rfl (hlabel k), fun r hr => ?_⟩
  obtain ⟨i, hi, rfl⟩ := List.mem_map.mp hr
  rw [List.mem_range] at hi
  exact recordOk_controlRecord s (by omega) (by omega) rfl (hquad _ _)

/-- Every record of a control decode is well formed. -/
theorem recordOk_controlRecords (s : State) (raw : Raw) : ∀ r ∈ controlRecords s raw, RecordOk s.params r := by
  unfold controlRecords
  split_ifs
  · exact recordOk_chselRecords s _ _
  · exact recordOk_rangeRecords s _ _
  · exact nofun

theorem rangeMillivolts_le {r : RangeSel} {rm : Nat} (h : rangeMillivolts r = some rm) : rm ≤ 10000 := by
  have hall : ∀ r, ∀ rm ∈ rangeMillivolts r, rm ≤ 10000 := by decide
  exact hall r rm h

/-- A voltage is at most 20 V (R165). -/
theorem millivolts_le {rm : Nat} (hrm : rm ≤ 10000) (raw : Raw) : millivolts raw rm ≤ 20000 := by
  have hraw : raw.toNat ≤ 65535 := by have := raw.isLt; omega
  have hmul : raw.toNat * rm ≤ 65535 * 10000 := Nat.mul_le_mul hraw hrm
  rw [millivolts, Nat.mul_assoc]
  omega

/-- The voltage record is well formed (R160 to R165). -/
theorem recordOk_voltageRecord {s : State} {rm : Nat} (h : FrameInv s.params s.frame) (hrm : rm ≤ 10000) :
    RecordOk s.params (voltageRecord rm s) := by
  refine ⟨isTs_frameStart h, h.end_ts, rfl, ?_⟩
  have hmv := millivolts_le hrm (correctedRaw s.frame.accRx)
  have hval : (BitVec.ofNat 16 (millivolts (correctedRaw s.frame.accRx) rm)).toNat =
      millivolts (correctedRaw s.frame.accRx) rm := by
    rw [BitVec.toNat_ofNat]
    omega
  simp [renderText, voltageRecord, hval, hmv]

/-! ## The machine -/

/-- The pins are no part of the invariant. -/
theorem Inv.loadPins {s : State} (h : Inv s) (i : PortIn) (rest : List PortIn) : Inv (loadPins i rest s) :=
  ⟨h.params, h.frame, h.buffer, h.buffered, h.delivered⟩

/-- A reset cycle keeps the invariant (R250, R251). -/
theorem Inv.applyReset {s : State} (h : Inv s) : Inv (applyReset s) :=
  ⟨h.params, frameInv_reset (isTs_mod _ _), Nat.zero_le _, nofun, h.delivered⟩

/-- A record taken keeps the invariant (R254). -/
theorem Inv.takeRecord {s : State} (h : Inv s) : Inv (takeRecord s) := by
  cases hb : s.outBuf with
  | nil => simpa [Machine.takeRecord, hb] using h
  | cons r rs =>
    have hbuffer := h.buffer
    have hbuffered := h.buffered
    rw [hb, List.forall_mem_cons] at hbuffered
    rw [hb, List.length_cons] at hbuffer
    rw [takeRecord_cons hb]
    refine ⟨h.params, h.frame, by simp only; omega, hbuffered.2, fun x hx => ?_⟩
    rcases List.mem_append.mp hx with hx | hx
    · exact h.delivered x hx
    · rw [List.mem_singleton.mp hx]; exact hbuffered.1

/-- A rising edge from an empty buffer keeps the invariant (R9, R137). -/
theorem Inv.finalize {s t : State} (h : Inv s) (hbuf : s.outBuf = []) (hstep : finalize s = .next t) : Inv t := by
  have hlen : t.outBuf.length ≤ Config.maxAnn := by
    rcases finalize_cases s with ⟨-, hr⟩ | ⟨rs, k, hrs, hn⟩
    · rw [hr] at hstep; cases hstep
    · rw [hn, Host.Outcome.next.injEq] at hstep
      simpa [← hstep, hbuf] using hrs
  cases hrm : rangeMillivolts s.rangeSel with
  | none => simp [Machine.finalize, hrm] at hstep
  | some rm =>
    rw [finalize_eq hrm, Host.Outcome.next.injEq] at hstep
    subst hstep
    refine ⟨h.params, h.frame.clearFrame, hlen, ?_, h.delivered⟩
    have hvolt : RecordOk s.params (voltageRecord rm s) := recordOk_voltageRecord h.frame (rangeMillivolts_le hrm)
    have hctl := recordOk_controlRecords s (correctedRaw s.frame.accTx)
    rw [hbuf, List.nil_append]
    intro r hr
    rcases List.mem_append.mp hr with hr | hr
    · split at hr
      · rw [List.mem_singleton.mp hr]; exact hvolt
      · cases hr
    · split at hr
      · exact hctl r hr
      · cases hr

/-- An event accepted with an empty buffer keeps the invariant. -/
theorem Inv.acceptEvent {w : Nat} {s t : State} (h : Inv s) (hbuf : s.outBuf = [])
    (hstep : acceptEvent w s = .next t) : Inv t := by
  rcases acceptEvent_cases hstep with ⟨_, _, rfl⟩ | ⟨_, hf⟩ | ⟨_, rfl⟩
  · have hfits := EvtBody.fits_iff.mp (evtBody_fits h.params w)
    obtain ⟨hstart, hend, -, -⟩ := hfits
    exact ⟨h.params, h.frame.accumulateFrame (isTs_iff.mpr hstart) (isTs_iff.mpr hend) _, h.buffer, h.buffered,
      h.delivered⟩
  · exact h.finalize hbuf hf
  · exact h

/-- A cycle keeps the invariant and the parameters. -/
theorem Inv.cycleWith {i : PortIn} {s t : State} (h : Inv s) (hstep : cycleWith i s = .next t) :
    Inv t ∧ t.params = s.params := by
  rcases cycleWith_cases i s with ⟨-, hc⟩ | ⟨-, -, hbuf, hc⟩ | ⟨-, -, hbuf, hc⟩ | ⟨-, -, -, hc⟩ <;> rw [hc] at hstep
  · cases hstep
    exact ⟨h.applyReset, rfl⟩
  · obtain ⟨f, rs, k, -, ht⟩ := acceptEvent_writes hstep
    exact ⟨h.acceptEvent hbuf hstep, by rw [ht]⟩
  · cases hstep
    obtain ⟨r, rs, hrs⟩ := List.exists_cons_of_ne_nil hbuf
    exact ⟨h.takeRecord, by rw [takeRecord_cons hrs]⟩
  · cases hstep
    exact ⟨h, rfl⟩

/-- Settles O57: a step is a cycle with the sample that waits, or holds the state. -/
theorem stepKeepsInvariant : Obligations.StepKeepsInvariant := by
  intro s t h hstep
  cases hin : s.inputs with
  | nil =>
    rw [step_of_no_input hin] at hstep
    cases hstep
    exact ⟨h, rfl⟩
  | cons i rest =>
    rw [step_of_input hin] at hstep
    exact (h.loadPins i rest).cycleWith hstep

end Sys2Proof.Machine

/-! # One frame as a transaction, the packed output record and the lines of a trace -/

namespace Sys2Proof.Machine

/-! ## The packed output record (R82) -/

/-- Settles O7: each field of the port word stands above the fields before it. -/
theorem outputRecordFields : Obligations.OutputRecordFields := by
  refine ⟨rfl, rfl, rfl, rfl, rfl, rfl, rfl, rfl, fun p r hs he => ?_⟩
  refine ⟨?_, ?_, ?_, ?_, ?_, ?_, ?_⟩
  · refine (packFields_lt _).trans_eq (congrArg (2 ^ ·) ?_)
    simp +arith
  · have hstart : field (packAnn p r) 0 p.tsWidth = r.startTs := field_of_packFields [] _ rfl rfl hs
    simpa [field] using hstart
  · exact field_of_packFields [_] _ rfl (by simp) he
  · exact field_of_packFields [_, _] _ rfl (by simp +arith) (classCode r.classId).isLt
  · exact field_of_packFields [_, _, _] _ rfl (by simp +arith) (kindCode r.kind).isLt
  · exact field_of_packFields [_, _, _, _] _ rfl (by simp +arith) r.aux.isLt
  · exact field_of_packFields [_, _, _, _, _] _ rfl (by simp +arith) r.value.isLt

/-! ## One frame at the transaction level (R84, R100, R137) -/

/-- The transaction of a well-formed event is its instruction, its records then at the sink. -/
theorem transact_encode {i : Instr} {w : Nat} {s : State} (r : RangeSel) (hwf : i.wellFormed s.params = true)
    (henc : encode s.params i = .evt w) :
    transact r w s = andThen (exec i { s with rangeSel := r }) fun t => .next (drain t) := by
  have hdec : decode s.params (.evt w) = .ok i := by rw [← henc]; exact decodeEncodeRoundTrip s.params i hwf
  rw [transact, acceptEvent_of_ok (s := { s with rangeSel := r }) hdec]

/-- The body of a frame's BITS event. -/
def frameBody (a b : Nat) (rx tx : TraceBits) : EvtBody :=
  { startTs := a, endTs := b, rxLen := rx.len, rxVec := rx.vec, txLen := tx.len, txVec := tx.vec }

/-- The body of a CS line at one time. -/
def levelBody (t : Nat) : EvtBody := { startTs := t, endTs := t, rxLen := 0, rxVec := 0, txLen := 0, txVec := 0 }

theorem levelBody_fits {p : Config.Params} {t : Nat} (h : t < 2 ^ p.tsWidth) : (levelBody t).fits p = true :=
  EvtBody.fits_iff.mpr ⟨h, h, Nat.two_pow_pos _, Nat.two_pow_pos _⟩

/-- The state that a frame's BITS event leaves at the transaction level, its samples of the range the same. -/
def afterBits (r : RangeSel) (ev : EvtBody) (s : State) : State :=
  { s with
    frame := accumulateFrame s.params ev s.draws s.frame
    outBuf := []
    rangeSel := r
    delivered := s.delivered ++ s.outBuf
    draws := s.draws + widthDraws ev }

/-- The three transactions of `FRAME` run the falling edge, the bits and the rising edge (R84). -/
theorem transactAll_frame (r : RangeSel) {a b : Nat} {rx tx : TraceBits} {s : State}
    (hs : (levelBody a).fits s.params = true) (he : (levelBody b).fits s.params = true)
    (hb : (frameBody a b rx tx).fits s.params = true) (hlen : (frameBody a b rx tx).lengthsLegal s.params = true) :
    transactAll (traceRecords s.params r [.frame a b rx tx]) s =
      andThen (finalize (afterBits r (frameBody a b rx tx) s)) fun t => .next (drain t) := by
  have hwf : (Instr.bits 0 (frameBody a b rx tx)).wellFormed s.params = true := by
    simp [Instr.wellFormed, hb, hlen]
  have hfall : transact r (packEvt s.params (csHdr 0b01#2 false) (levelBody a)) s =
      .next (drain { s with rangeSel := r }) := transact_encode (i := .csFall (levelBody a)) r hs rfl
  have hbits : transact r (packEvt s.params (0#3 ++ 0#1) (frameBody a b rx tx)) (drain { s with rangeSel := r }) =
      .next (afterBits r (frameBody a b rx tx) s) := by
    refine (transact_encode (s := drain { s with rangeSel := r }) r hwf rfl).trans ?_
    simp [exec, execBits, hlen, afterBits, accumulate, drain]
  have hrise : transact r (packEvt s.params (csHdr 0b00#2 true) (levelBody b)) (afterBits r (frameBody a b rx tx) s) =
      andThen (finalize (afterBits r (frameBody a b rx tx) s)) fun t => .next (drain t) :=
    transact_encode (i := .csRise (levelBody b)) (s := afterBits r (frameBody a b rx tx) s) r he rfl
  calc transactAll (traceRecords s.params r [.frame a b rx tx]) s
      = andThen (transact r (packEvt s.params (csHdr 0b01#2 false) (levelBody a)) s) (transactAll
          [(r, packEvt s.params (0#3 ++ 0#1) (frameBody a b rx tx)),
           (r, packEvt s.params (csHdr 0b00#2 true) (levelBody b))]) := rfl
    _ = andThen (transact r (packEvt s.params (csHdr 0b00#2 true) (levelBody b))
          (afterBits r (frameBody a b rx tx) s)) .next := by
        rw [hfall, andThen_next, transactAll, hbits]
        rfl
    _ = andThen (finalize (afterBits r (frameBody a b rx tx) s)) fun t => .next (drain t) := by
        rw [hrise]
        cases finalize (afterBits r (frameBody a b rx tx) s) <;> rfl

/-- The frame that one duplex BITS event leaves from IDLE, its span not reversed (R100 to R105). -/
theorem accumulateFrame_duplex {p : Config.Params} {ev : EvtBody} {f : FrameState} (draws : Nat)
    (hidle : f.frameStartValid = false) (hrx : f.accRx = 0) (htx : f.accTx = 0) (hspan : ev.startTs ≤ ev.endTs)
    (hrl : 0 < ev.rxLen.toNat) (htl : 0 < ev.txLen.toNat) : accumulateFrame p ev draws f =
      { accRx := foldBits 0 (rxSeq ev), accTx := foldBits 0 (txSeq ev), frameStartValid := true
        frameStartTs := ev.startTs, frameEndTs := ev.endTs, bitWidthValid := true
        bitWidthTs := (ev.endTs - ev.startTs) / ev.txLen.toNat, rxPresent := true, txPresent := true } := by
  have hrev : spanReversed ev = false := by simpa [spanReversed] using hspan
  rw [accumulateFrame_eq]
  simp [presence, hrl, htl, hidle, hrx, htx, cellWidth, hrev]

/-- An event that is not reversed draws no free width (R106). -/
theorem widthDraws_of_le {ev : EvtBody} (h : ev.startTs ≤ ev.endTs) : widthDraws ev = 0 := by
  simp [widthDraws, spanReversed, Nat.not_lt.mpr h]

/-- Settles O59: the frame's registers are those of one duplex BITS event, and its spans are exact. -/
theorem frameTransaction : Obligations.FrameTransaction := by
  intro r rm a b rx tx s hrm hidle hrx htx hbuf hab hb hrl hrl' htl htl' hrv htv hexact
  have ha : a < 2 ^ s.params.tsWidth := hab.trans_lt hb
  have hframe : (afterBits r (frameBody a b rx tx) s).frame = _ := accumulateFrame_duplex (p := s.params)
    (ev := frameBody a b rx tx) s.draws hidle hrx htx hab hrl htl
  have hstart : frameStart (afterBits r (frameBody a b rx tx) s) = a := by rw [frameStart, hframe]; rfl
  have hspan : spanExact s.params a ((b - a) / tx.len.toNat) = true := isTs_iff.mpr hexact
  have hrun := transactAll_frame r (levelBody_fits ha) (levelBody_fits hb)
    (EvtBody.fits_iff.mpr ⟨ha, hb, hrv, htv⟩) (EvtBody.lengthsLegal_iff.mpr ⟨hrl', htl'⟩)
  rw [finalize_exact (s := afterBits r (frameBody a b rx tx) s) hrm fun _ => by rw [hstart, hframe]; exact hspan,
    andThen_next, hstart, hframe] at hrun
  refine ⟨_, hrun, ?_, rfl, ?_, rfl⟩
  · simp [afterBits, frameBody, rxSeq, txSeq, correctedRaw_foldBits_zero, hbuf]
  · simp [afterBits, widthDraws_of_le (ev := frameBody a b rx tx) hab]

/-! ## The lines of a trace (R83, R84) -/

/-- Settles O60: the events of a line by its form, and the spec's lines read by evaluation. -/
theorem traceLinesStandForEvents : Obligations.TraceLinesStandForEvents := by
  refine ⟨fun _ _ _ _ => rfl, fun _ _ => ⟨rfl, rfl, rfl, rfl, fun _ => rfl⟩, fun _ _ _ _ => rfl,
    fun p r l ls hl => ?_, ?_⟩
  · have hrange : traceRange r l = r := by
      cases l with
      | range r' => exact absurd rfl (hl r')
      | _ => rfl
    simp [traceRecords, hrange]
  · decide

end Sys2Proof.Machine

/-! # The state: reset, what opens and closes a frame, and the values no event reads (R23, R32 to R35, R257) -/

namespace Sys2Proof.Machine

/-! ## The reset state (R35) -/

/-- Settles O54: the unspecified `frame_start_ts` is the model's 0. -/
theorem resetValues : Obligations.ResetValues := ⟨⟨0, rfl⟩, rfl⟩

/-- Settles O56: the FrameState's invariant holds of every reset value of `frame_start_ts` that is a timestamp, and
there are no records. -/
theorem invariantAtReset : Obligations.InvariantAtReset := by
  have hstart : Config.defaults.isTs 0 = true := isTs_iff.mpr (Nat.two_pow_pos _)
  exact ⟨⟨by decide, frameInv_reset hstart, Nat.zero_le _, nofun, nofun⟩, rfl⟩

/-! ## The sampled range (R30, R31, R139) -/

/-- Settles O37. -/
theorem rangeMagnitudes : Obligations.RangeMagnitudes := ⟨rfl, rfl, rfl, rfl⟩

/-- A rising edge without a range magnitude is refused (R139). -/
theorem finalize_of_no_range {s : State} (h : rangeMillivolts s.rangeSel = none) :
    finalize s = .refused .reservedRangeSel := by
  simp only [finalize, h]

/-- Settles O36: the reserved code has no magnitude (O37), and the flags are not asked. -/
theorem reservedRangeRefused : Obligations.ReservedRangeRefused := by
  intro ev s h
  obtain ⟨-, -, -, hreserved⟩ := rangeMagnitudes
  exact ⟨finalize_of_no_range (by rw [h, hreserved]), rfl⟩

/-! ## What the finalize sequence does to a frame (R137 to R141) -/

/-- A finalize sequence that completes leaves the cleared frame (R140). -/
theorem finalize_frame {s t : State} (h : finalize s = .next t) : t.frame = clearFrame s.frame := by
  rcases finalize_cases s with ⟨-, hr⟩ | ⟨rs, k, -, hn⟩
  · rw [hr] at h; cases h
  · rw [hn] at h; cases h; rfl

/-- With neither direction present the finalize sequence clears the frame and emits nothing (R141). -/
theorem finalize_empty {s : State} {rm : Nat} (h : rangeMillivolts s.rangeSel = some rm)
    (hrx : s.frame.rxPresent = false) (htx : s.frame.txPresent = false) :
    finalize s = .next (finalizeReset s) := by
  rw [finalize_eq h, hrx, htx]
  simp [finalizeReset]

/-- In IDLE neither direction is present (R34). -/
theorem FrameInv.absent_of_idle {p : Config.Params} {f : FrameState} (h : FrameInv p f)
    (hidle : f.frameStartValid = false) : f.rxPresent = false ∧ f.txPresent = false := by
  have hopen := h.present_open
  rw [hidle] at hopen
  refine ⟨Bool.eq_false_iff.mpr fun hrx => ?_, Bool.eq_false_iff.mpr fun htx => ?_⟩
  · cases hopen (.inl hrx)
  · cases hopen (.inr htx)

/-! ## What opens and what closes a frame (R32, R251) -/

/-- A BITS event of legal lengths is accumulated (R100). -/
theorem exec_bits_of_legal {ev : EvtBody} {s : State} (pad : BitVec 3) (h : ev.lengthsLegal s.params = true) :
    exec (.bits pad ev) s = .next (accumulate ev s) := if_pos h

/-- A BITS event of a length above `MAX_BITS` is refused (R76). -/
theorem exec_bits_of_long {ev : EvtBody} {s : State} (pad : BitVec 3) (h : ¬ ev.lengthsLegal s.params = true) :
    exec (.bits pad ev) s = .refused .bitCountAboveMaxBits := if_neg h

/-- A BITS event leaves an open frame (R102). -/
theorem accumulate_opens (ev : EvtBody) (s : State) : (accumulate ev s).frame.frameStartValid = true := by
  rw [accumulate_frame, accumulateFrame_eq]

/-- An accepted event that opens a frame is a BITS event, and one that closes it a rising edge (R32). -/
theorem acceptEvent_opens_or_closes {w : Nat} {s t : State} (h : acceptEvent w s = .next t)
    (hne : t.frame.frameStartValid ≠ s.frame.frameStartValid) :
    (t.frame.frameStartValid = true ∧ w % 2 = 0) ∨ (t.frame.frameStartValid = false ∧ w % 16 = 0b1001) := by
  rcases acceptEvent_cases h with ⟨hw, -, rfl⟩ | ⟨hw, hf⟩ | ⟨-, rfl⟩
  · exact .inl ⟨accumulate_opens _ s, hw⟩
  · exact .inr ⟨by rw [finalize_frame hf, clearFrame_frameStartValid], hw⟩
  · exact absurd rfl hne

/-- Settles O43: a step that takes no sample, and a cycle that neither resets nor accepts, keep the frame. -/
theorem frameOpensAndCloses : Obligations.FrameOpensAndCloses := by
  intro s t hstep hne
  cases hin : s.inputs with
  | nil =>
    rw [step_of_no_input hin] at hstep
    cases hstep
    exact absurd rfl hne
  | cons i rest =>
    refine ⟨i, rest, rfl, ?_⟩
    cases hrst : i.rst with
    | true =>
      have hreset : t = applyReset (loadPins i rest s) := by
        rw [step_of_input hin, cycleWith, if_pos hrst] at hstep
        exact (Host.Outcome.next.inj hstep).symm
      have hclosed : t.frame.frameStartValid = false := by rw [hreset, applyReset_frame]; rfl
      simp [hclosed]
    | false =>
      obtain ⟨-, ⟨hacc, -, hev⟩ | ⟨-, hview⟩⟩ := step_accepts_or_keeps_view hin hrst hstep
      · rcases acceptEvent_opens_or_closes hev hne with ⟨ht, hw⟩ | ⟨ht, hw⟩ <;> simp [ht, hacc, hw]
      · obtain ⟨-, hframe, -, -⟩ := blockView_eq_iff.mp hview
        exact absurd (congrArg FrameState.frameStartValid hframe) hne

/-! ## The unset frame start (R23, R34) -/

/-- The state with another content of the register `frame_start_ts`. -/
def withStart (v : Nat) (s : State) : State := { s with frame := { s.frame with frameStartTs := v } }

/-- The register holds `frame_start_ts` already. -/
theorem withStart_self (s : State) : withStart s.frame.frameStartTs s = s := rfl

/-- A BITS event writes the unset frame start and does not read it (R102). -/
theorem accumulate_withStart {s : State} (ev : EvtBody) (v : Nat) (hidle : s.frame.frameStartValid = false) :
    accumulate ev (withStart v s) = accumulate ev s := by
  simp [accumulate, withStart, accumulateFrame_eq, hidle]

/-- With neither direction present a finalize sequence does not read the frame start (R141). -/
theorem finalize_withStart {s : State} (v : Nat) (hrx : s.frame.rxPresent = false)
    (htx : s.frame.txPresent = false) :
    finalize (withStart v s) = andThen (finalize s) fun t => .next (withStart v t) := by
  cases hrm : rangeMillivolts s.rangeSel with
  | none =>
    rw [finalize_of_no_range hrm, finalize_of_no_range (s := withStart v s) hrm]
    rfl
  | some rm =>
    rw [finalize_empty hrm hrx htx, finalize_empty (s := withStart v s) hrm hrx htx]
    rfl

/-- Settles O55: in IDLE a BITS event writes the register, a rising edge finds no direction present, and every other
event is a no-op. -/
theorem unsetStartNeverRead : Obligations.UnsetStartNeverRead := by
  intro w s t v hinv hidle h
  show ∃ v', acceptEvent w (withStart v s) = .next (withStart v' t) ∧ _
  obtain ⟨hrx, htx⟩ := hinv.absent_of_idle hidle
  cases hdec : decode s.params (.evt w) with
  | error e => rw [acceptEvent_of_error hdec] at h; cases h
  | ok i =>
    rw [acceptEvent_of_ok hdec] at h
    rw [acceptEvent_of_ok (s := withStart v s) hdec]
    rcases decodeEvt_eq_ok hdec with ⟨-, rfl⟩ | ⟨-, hlen, rfl⟩
    · rw [exec_csClass] at h ⊢
      split_ifs at h ⊢ with hrsvd hrise
      · have hclosed : t.frame.frameStartValid = false := by
          rw [finalize_frame h, clearFrame_frameStartValid]
        refine ⟨v, ?_, fun ht => by rw [hclosed] at ht; cases ht⟩
        rw [finalize_withStart v hrx htx, h, andThen_next]
      · cases h
        exact ⟨v, rfl, fun ht => by rw [hidle] at ht; cases ht⟩
    · rw [exec_bits_of_legal _ hlen] at h
      cases h
      refine ⟨_, ?_, fun _ => rfl⟩
      rw [exec_bits_of_legal (s := withStart v s) _ hlen, accumulate_withStart _ v hidle, withStart_self]

/-! ## The draws (R34, R257) -/

/-- The state with another value of the counter that the free values are functions of. -/
def withDraws (d : Nat) (s : State) : State := { s with draws := d }

/-- In an open frame a read of the frame start gives the register (R23). -/
theorem frameStart_of_open {s : State} (h : s.frame.frameStartValid = true) :
    frameStart s = s.frame.frameStartTs := if_pos h

/-- In an open frame a read of the frame start gives no free value. -/
theorem frameStart_withDraws {s : State} (d : Nat) (h : s.frame.frameStartValid = true) :
    frameStart (withDraws d s) = frameStart s :=
  (frameStart_of_open (s := withDraws d s) h).trans (frameStart_of_open h).symm

/-- A BITS event that is not reversed draws no value and reads none (R105, R106). -/
theorem accumulate_withDraws {s : State} {ev : EvtBody} (d : Nat) (h : ev.startTs ≤ ev.endTs) :
    accumulate ev (withDraws d s) = withDraws d (accumulate ev s) := by
  have hrev : spanReversed ev = false := by simpa [spanReversed] using h
  simp [accumulate, withDraws, accumulateFrame_eq, widthDraws_of_le h, cellWidth, hrev]

/-- A rising edge with exact control spans draws no value and reads none: a record belongs to an open frame (R34,
R181). -/
theorem finalize_withDraws {s : State} (d : Nat) (hinv : FrameInv s.params s.frame)
    (hspan : s.frame.txPresent = true → spanExact s.params s.frame.frameStartTs s.frame.bitWidthTs = true) :
    finalize (withDraws d s) = andThen (finalize s) fun t => .next (withDraws d t) := by
  cases hrm : rangeMillivolts s.rangeSel with
  | none =>
    rw [finalize_of_no_range hrm, finalize_of_no_range (s := withDraws d s) hrm]
    rfl
  | some rm =>
    cases hopen : s.frame.frameStartValid with
    | false =>
      obtain ⟨hrx, htx⟩ := hinv.absent_of_idle hopen
      rw [finalize_empty hrm hrx htx, finalize_empty (s := withDraws d s) hrm hrx htx]
      rfl
    | true =>
      have hstart := frameStart_withDraws d hopen
      rw [← frameStart_of_open hopen] at hspan
      rw [finalize_exact hrm hspan, finalize_exact (s := withDraws d s) hrm (by rw [hstart]; exact hspan), hstart]
      rfl

section exactSpans
variable {s : State} (h : controlSpansExact s)
include h

/-- The exact spans of an open frame are those that a control decode reads (R181). -/
theorem spanExact_of_controlSpansExact : spanExact s.params (frameStart s) s.frame.bitWidthTs = true := by
  obtain ⟨hopen, hspan⟩ := h
  rwa [frameStart_of_open hopen]

/-- With exact spans a control record is the same for every value of the counter. -/
theorem controlRecord_withDraws (d : Nat) : controlRecord (withDraws d s) = controlRecord s := by
  have h' : controlSpansExact (withDraws d s) := h
  have hspan := spanExact_of_controlSpansExact h
  have hspan' := spanExact_of_controlSpansExact h'
  obtain ⟨hopen, -⟩ := h
  funext a b kind aux value text
  rw [controlRecord_exact hspan, controlRecord_exact hspan', frameStart_withDraws d hopen]
  rfl

theorem chselRecords_withDraws (d : Nat) (chb cha : BitVec 4) :
    chselRecords (withDraws d s) chb cha = chselRecords s chb cha := by
  simp only [chselRecords, controlRecord_withDraws h d]

theorem rangeRecords_withDraws (d : Nat) (k : BitVec 2) (q : Quads) :
    rangeRecords (withDraws d s) k q = rangeRecords s k q := by
  have hquad : quadRecord (withDraws d s) q = quadRecord s q := by
    funext i
    simp only [quadRecord, controlRecord_withDraws h d]
  simp only [rangeRecords, controlRecord_withDraws h d, hquad]

/-- With exact spans the records of a control decode are emitted without a draw. -/
theorem emitControl_withDraws (d : Nat) (rs : List Annotation) :
    emitControl rs (withDraws d s) = withDraws d (emitControl rs s) := by
  have h' : controlSpansExact (withDraws d s) := h
  simp only [emitControl, spanDraws_exact (spanExact_of_controlSpansExact h')]
  rfl

/-- With exact spans a channel select draws no value and reads none (R184). -/
theorem execCtlChsel_withDraws (d : Nat) (p15 p8 : Bool) (chb cha : BitVec 4) :
    execCtlChsel p15 p8 chb cha (withDraws d s) =
      andThen (execCtlChsel p15 p8 chb cha s) fun t => .next (withDraws d t) :=
  calc execCtlChsel p15 p8 chb cha (withDraws d s)
      = .next (emitControl (chselRecords (withDraws d s) chb cha) (withDraws d s)) := rfl
    _ = .next (withDraws d (emitControl (chselRecords s chb cha) s)) := by
      rw [chselRecords_withDraws h, emitControl_withDraws h]

/-- With exact spans the range-select branch draws no value and reads none (R187). -/
theorem emitControl_rangeRecords_withDraws (d : Nat) (k : BitVec 2) (q : Quads) :
    emitControl (rangeRecords (withDraws d s) k q) (withDraws d s) =
      withDraws d (emitControl (rangeRecords s k q) s) := by
  rw [rangeRecords_withDraws h, emitControl_withDraws h]

end exactSpans

/-- An instruction that avoids the value hazards commutes with a change of the counter (R257). -/
theorem exec_withDraws {i : Instr} {s : State} (d : Nat) (hinv : FrameInv s.params s.frame)
    (hfree : hazardFree s i) :
    exec i (withDraws d s) = andThen (exec i s) fun t => .next (withDraws d t) := by
  cases i with
  | bits pad ev =>
    by_cases hlen : ev.lengthsLegal s.params = true
    · rw [exec_bits_of_legal (s := withDraws d s) pad hlen, exec_bits_of_legal pad hlen, accumulate_withDraws d hfree]
      rfl
    · rw [exec_bits_of_long (s := withDraws d s) pad hlen, exec_bits_of_long pad hlen]
      rfl
  | csRise ev => exact finalize_withDraws d hinv hfree
  | ctlChsel p15 p8 chb cha => exact execCtlChsel_withDraws hfree d p15 p8 chb cha
  | ctlRangeALo p15 p8 q => exact congrArg Host.Outcome.next (emitControl_rangeRecords_withDraws hfree d 0 q)
  | ctlRangeAHi p15 p8 q => exact congrArg Host.Outcome.next (emitControl_rangeRecords_withDraws hfree d 1 q)
  | ctlRangeBLo p15 p8 q => exact congrArg Host.Outcome.next (emitControl_rangeRecords_withDraws hfree d 2 q)
  | ctlRangeBHi p15 p8 q => exact congrArg Host.Outcome.next (emitControl_rangeRecords_withDraws hfree d 3 q)
  | _ => rfl

/-- Settles O58. -/
theorem hazardFreeDrawsNothing : Obligations.HazardFreeDrawsNothing := by
  intro i s t d hinv hfree h
  have hrun := exec_withDraws d hinv hfree
  rwa [h, andThen_next] at hrun

end Sys2Proof.Machine

/-! # Headers, rows and refusals (30_encoding.md): what a word selects, and what a block makes of it -/

namespace Sys2Proof

/-! ## The class of an event record (R71, R72) -/

/-- A record whose header carries two levels is decoded to their class. -/
theorem decode_of_csHdr {p : Config.Params} {w : Nat} {old : BitVec 2} {new : Bool} (h : evtHdr w = csHdr old new) :
    decode p (.evt w) = .ok (csClass old new (evtBody p w)) := by
  have hfields : ∀ old new, hdrIsCsChange (csHdr old new) = true ∧ hdrCsOld (csHdr old new) = old ∧
      hdrCsNew (csHdr old new) = new := by decide
  obtain ⟨hkind, hold, hnew⟩ := hfields old new
  rw [decode, decodeEvt_csChange (by rw [h, hkind]), h, hold, hnew]

/-- Settles O4: a mask and match of R71 fix the header of a CS_CHANGE event but for the bit they leave open, which is
the new level. -/
theorem headerSelectsClass : Obligations.HeaderSelectsClass := by
  intro p w h
  have hw : evtHdr w = h := evtHdr_eq w
  have hbits : ∀ h : BitVec 4, h &&& 0b0001#4 = 0b0000#4 → hdrIsCsChange h = false := by decide
  have hrise : ∀ h : BitVec 4, h &&& 0b1111#4 = 0b1001#4 → h = csHdr 0b00#2 true := by decide
  have hfall : ∀ h : BitVec 4, h &&& 0b1111#4 = 0b0011#4 → h = csHdr 0b01#2 false := by decide
  have hlow : ∀ h : BitVec 4, h &&& 0b1111#4 = 0b0001#4 → h = csHdr 0b00#2 false := by decide
  have hhigh : ∀ h : BitVec 4, h &&& 0b1111#4 = 0b1011#4 → h = csHdr 0b01#2 true := by decide
  have hfirst : ∀ h : BitVec 4, h &&& 0b0111#4 = 0b0101#4 → h = csHdr 0b10#2 (h.getLsbD 3) := by decide
  have hrsvd : ∀ h : BitVec 4, h &&& 0b0111#4 = 0b0111#4 → h = csHdr 0b11#2 (h.getLsbD 3) := by decide
  refine ⟨fun hm hlen => ?_, fun hm => ?_, fun hm => ?_, fun hm => ?_, fun hm => ?_, fun hm => ?_, fun hm => ?_⟩
  · rw [← hw] at hm ⊢
    exact decodeEvt_bits (hbits _ hm) hlen
  · exact decode_of_csHdr (hw.trans (hrise h hm))
  · exact decode_of_csHdr (hw.trans (hfall h hm))
  · exact decode_of_csHdr (hw.trans (hlow h hm))
  · exact decode_of_csHdr (hw.trans (hhigh h hm))
  · exact decode_of_csHdr (hw.trans (hfirst h hm))
  · exact decode_of_csHdr (hw.trans (hrsvd h hm))

/-! ## The row of a control word (R80) -/

/-- The masks and matches of R80, cut to the register address. -/
def addressTable : List (BitVec 6 × BitVec 6) :=
  [(0x3E, 0), (0x3F, 2), (0x3F, 3), (0x3F, 4), (0x3F, 5), (0x3F, 6), (0x3F, 7), (0x38, 8), (0x30, 16), (0x20, 32)]

/-- The row of R80 that a register address falls in. -/
def addressRow (r : BitVec 6) : Nat :=
  if r.toNat < 2 then 0 else if r.toNat < 8 then r.toNat - 1
  else if r.toNat < 16 then 7 else if r.toNat < 32 then 8 else 9

/-- Every row of R80 masks bits of the register address alone. -/
theorem ctlwTable_eq :
    Machine.ctlwTable = addressTable.map fun e => (packCtlw false e.1 false 0, packCtlw false e.2 false 0) := by
  decide

/-- An address meets the one row it falls in. -/
theorem addressTable_partition : ∀ (r : BitVec 6) (k : Fin addressTable.length),
    r &&& addressTable[k].1 = addressTable[k].2 ↔ addressRow r = k := by decide

theorem addressRow_lt : ∀ r : BitVec 6, addressRow r < 10 := by decide

/-- A control word decodes to the row its register address falls in (R80). -/
theorem ctlwRow_decodeCtlw (raw : Raw) : Machine.ctlwRow (decodeCtlw raw) = some (addressRow (ctlReg raw)) := by
  rw [decodeCtlw_eq]
  unfold addressRow
  split_ifs <;> simp only [Machine.ctlwRow, Option.some.injEq] <;> omega

/-- Settles O5: a word meets a row when its register address does, and an address meets the one row it falls in. -/
theorem controlRowsPartitionWords : Obligations.ControlRowsPartitionWords := by
  intro raw
  rw [ctlwRow_decodeCtlw]
  refine ⟨⟨_, addressRow_lt _, rfl⟩, fun k mask pattern hk => ?_⟩
  rw [ctlwTable_eq, List.getElem?_map, Option.map_eq_some_iff] at hk
  obtain ⟨⟨m, p⟩, hk, hrow⟩ := hk
  obtain ⟨rfl, rfl⟩ := Prod.mk.inj hrow
  obtain ⟨hlt, hk⟩ := List.getElem?_eq_some_iff.mp hk
  have hmeets := addressTable_partition (ctlReg raw) ⟨k, hlt⟩
  rw [Fin.getElem_fin, hk] at hmeets
  rw [and_mask_iff raw m p rfl rfl, hmeets, Option.some.injEq]

/-! ## Words of the spec -/

/-- Settles O6: the words are closed, and the decoder evaluates on them. -/
theorem specWordsDecode : Obligations.SpecWordsDecode := by
  unfold Obligations.SpecWordsDecode
  decide

end Sys2Proof

namespace Sys2Proof.Machine

/-- Settles O8: each expansion is the list of the events shown. -/
theorem pseudoEventsExpand : Obligations.PseudoEventsExpand := fun _ _ _ _ _ _ => ⟨rfl, rfl, rfl, rfl⟩

/-! ## An accepted record, by its kind (R71, R73, R76) -/

/-- A BITS record is accumulated where its lengths are legal, and else refused; its pad is not read (R74, R76). -/
theorem acceptEvent_bits {w : Nat} (s : State) (h : w % 2 = 0) :
    acceptEvent w s = if (evtBody s.params w).lengthsLegal s.params
      then .next (accumulate (evtBody s.params w) s) else .refused .bitCountAboveMaxBits := by
  have hkind : hdrIsCsChange (evtHdr w) = false := by
    rw [← Bool.not_eq_true, hdrIsCsChange_evtHdr]
    omega
  split
  · next hlen => rw [acceptEvent_of_ok (decodeEvt_bits hkind hlen), exec_bits_of_legal _ hlen]
  · next hlen =>
    rw [acceptEvent_of_error (e := .bitCountAboveMaxBits) (decodeEvt_eq_error_iff.mpr ⟨hkind, by simpa using hlen⟩)]
    rfl

/-- A CS_CHANGE record runs the class of its levels. -/
theorem acceptEvent_csChange {w : Nat} (s : State) (h : w % 2 = 1) :
    acceptEvent w s = exec (csClass (hdrCsOld (evtHdr w)) (hdrCsNew (evtHdr w)) (evtBody s.params w)) s :=
  acceptEvent_of_ok (decodeEvt_csChange ((hdrIsCsChange_evtHdr w).mpr h))

/-- The field `cs_old` of a record as a number (R71, R77). -/
theorem hdrCsOld_evtHdr_toNat (w : Nat) : (hdrCsOld (evtHdr w)).toNat = w / 2 % 4 := by
  simp only [evtHdr_eq, hdrCsOld, BitVec.extractLsb'_toNat, BitVec.toNat_ofNat, Nat.shiftRight_eq_div_pow]
  omega

/-- Settles O33: `cs_old` 11 is the class the step refuses, whatever the new level. -/
theorem reservedCsOldRefused : Obligations.ReservedCsOldRefused := by
  refine fun s => ⟨fun _ _ => rfl, fun w hw hold => ?_, rfl⟩
  have hrsvd : hdrCsOld (evtHdr w) = 0b11#2 := BitVec.eq_of_toNat_eq ((hdrCsOld_evtHdr_toNat w).trans hold)
  rw [acceptEvent_csChange s hw, exec_csClass, if_pos hrsvd]

/-! ## What a BITS event does not read (R74, R75) -/

/-- A sequence holds the vector's bits below the length alone (R75). -/
theorem bitSeq_congr {len : Len} {vec vec' : Vec} (h : ∀ k, k < len.toNat → vec.getLsbD k = vec'.getLsbD k) :
    bitSeq len vec = bitSeq len vec' :=
  List.map_congr_left fun k hk => h k (List.mem_range.mp hk)

/-- A BITS event is read through its timestamps, its lengths and its two sequences (R100). -/
theorem accumulate_congr {ev ev' : EvtBody} (s : State) (hstart : ev.startTs = ev'.startTs)
    (hend : ev.endTs = ev'.endTs) (hrl : ev.rxLen = ev'.rxLen) (htl : ev.txLen = ev'.txLen)
    (hrx : rxSeq ev = rxSeq ev') (htx : txSeq ev = txSeq ev') : accumulate ev s = accumulate ev' s := by
  have hrev : spanReversed ev = spanReversed ev' := by simp [spanReversed, hstart, hend]
  simp only [accumulate, accumulateFrame_eq, cellWidth, widthDraws, hrev, hstart, hend, hrl, htl, hrx, htx]

/-- Settles O29: neither the pad nor a vector bit above its length reaches the accumulation. -/
theorem ignoredBitsOfBits : Obligations.IgnoredBitsOfBits := by
  intro w w' s hw hw' ev ev' hstart hend hrl htl hrx htx
  have hrxSeq : rxSeq ev = rxSeq ev' := (bitSeq_congr hrx).trans (by rw [hrl]; rfl)
  have htxSeq : txSeq ev = txSeq ev' := (bitSeq_congr htx).trans (by rw [htl]; rfl)
  have hlegal : ev.lengthsLegal s.params = ev'.lengthsLegal s.params := by
    rw [EvtBody.lengthsLegal, hrl, htl]
    rfl
  calc acceptEvent w s
      = if ev.lengthsLegal s.params then .next (accumulate ev s) else .refused .bitCountAboveMaxBits :=
        acceptEvent_bits s hw
    _ = if ev'.lengthsLegal s.params then .next (accumulate ev' s) else .refused .bitCountAboveMaxBits := by
        rw [hlegal, accumulate_congr s hstart hend hrl htl hrxSeq htxSeq]
    _ = acceptEvent w' s := (acceptEvent_bits s hw').symm

/-! ## The control word of a rising edge (R80, R183) -/

/-- No row of `CTL_NONE` does anything (R193). -/
theorem controlNone_eq (raw : Raw) (s : State) : controlNone raw s = .next s := by
  simp only [controlNone, execCtlNone01, execCtlNone2, execCtlNone815, execCtlNone1631, execCtlNone3263, ite_self]

/-- The dispatch by register address runs the instruction that the rows of R80 give the word (R183). -/
theorem exec_decodeCtlw (raw : Raw) (s : State) : exec (decodeCtlw raw) s = controlDecode raw s := by
  have hnone (h : (ctlReg raw).toNat < 3 ∨ 7 < (ctlReg raw).toNat) : controlDecode raw s = .next s := by
    simp (disch := omega) only [controlDecode, if_neg, controlNone_eq]
  rw [decodeCtlw_eq]
  split_ifs with r01 r2 r3 r4 r5 r6 r7 r815 r1631
  · exact (hnone (by omega)).symm
  · exact (hnone (by omega)).symm
  · simp only [controlDecode, r3]; rfl
  · simp only [controlDecode, r4]; rfl
  · simp only [controlDecode, r5]; rfl
  · simp only [controlDecode, r6]; rfl
  · simp only [controlDecode, r7]; rfl
  · exact (hnone (by omega)).symm
  · exact (hnone (by omega)).symm
  · exact (hnone (by omega)).symm

/-- Settles O11: the voltage decode leaves the tx direction as it was, and the dispatch is `exec`. -/
theorem risingEdgeRunsControlWord : Obligations.RisingEdgeRunsControlWord := by
  intro ev s rm hrm htx
  have hvolt : finalizeVoltage rm s = if s.frame.rxPresent then emit [voltageRecord rm s] s else s := rfl
  have hframe : (finalizeVoltage rm s).frame = s.frame := by rw [finalizeVoltage_eq, emit_frame]
  calc exec (.csRise ev) s
      = finalizeWith rm s := by simp only [exec, execCsRise, finalize, hrm]
    _ = andThen (controlDecode (correctedRaw s.frame.accTx) (finalizeVoltage rm s))
          fun t => .next (finalizeReset t) := by
        rw [finalizeWith, finalizeControl, hframe, if_pos htx]
    _ = _ := by rw [← exec_decodeCtlw, hvolt]; rfl

/-! ## A run under the upstream contract (R73, R76, R139, R220) -/

/-- The finalize sequence completes with a legal range (R139). -/
theorem finalize_completes {s : State} (h : (rangeMillivolts s.rangeSel).isSome = true) :
    ∃ t, finalize s = .next t := by
  obtain ⟨rm, hrm⟩ := Option.isSome_iff_exists.mp h
  exact ⟨_, finalize_eq hrm⟩

/-- What the contract says of a CS_CHANGE event: no reserved `cs_old` (R73), and a legal range at the rising edge
(R139). -/
theorem legalEvent_csClass {p : Config.Params} {r : RangeSel} {w : Nat} {old : BitVec 2} {new : Bool} {ev : EvtBody}
    (hdec : decode p (.evt w) = .ok (csClass old new ev)) (h : legalEvent p r w = true) :
    old ≠ 0b11#2 ∧ (old = 0b00#2 ∧ new = true → (rangeMillivolts r).isSome = true) := by
  rw [legalEvent, hdec] at h
  refine ⟨?_, ?_⟩
  · rintro rfl
    cases h
  · rintro ⟨rfl, rfl⟩
    exact h

/-- An event that keeps the contract completes. -/
theorem acceptEvent_completes {w : Nat} {s : State} (h : legalEvent s.params s.rangeSel w = true) :
    ∃ t, acceptEvent w s = .next t := by
  cases hdec : decode s.params (.evt w) with
  | error e =>
    rw [legalEvent, hdec] at h
    cases h
  | ok i =>
    rw [acceptEvent_of_ok hdec]
    rcases decodeEvt_eq_ok hdec with ⟨-, rfl⟩ | ⟨-, hlen, rfl⟩
    · obtain ⟨hrsvd, hrange⟩ := legalEvent_csClass hdec h
      rw [exec_csClass, if_neg hrsvd]
      split
      · next hrise => exact finalize_completes (hrange hrise)
      · exact ⟨s, rfl⟩
    · exact ⟨_, exec_bits_of_legal _ hlen⟩

/-- A cycle keeps the parameters and the samples still to come. -/
theorem cycleWith_keeps {i : PortIn} {s t : State} (h : cycleWith i s = .next t) :
    t.params = s.params ∧ t.inputs = s.inputs := by
  rcases cycleWith_cases i s with ⟨-, hc⟩ | ⟨-, -, -, hc⟩ | ⟨-, -, hbuf, hc⟩ | ⟨-, -, -, hc⟩ <;> rw [hc] at h
  · cases h; exact ⟨rfl, rfl⟩
  · obtain ⟨f, rs, k, -, rfl⟩ := acceptEvent_writes h
    exact ⟨rfl, rfl⟩
  · cases h
    obtain ⟨r, rs, hrs⟩ := List.exists_cons_of_ne_nil hbuf
    rw [takeRecord_cons hrs]
    exact ⟨rfl, rfl⟩
  · cases h; exact ⟨rfl, rfl⟩

/-- A cycle with a sample that keeps the contract completes. -/
theorem cycleWith_completes {i : PortIn} {s : State} (hpin : s.rangeSel = i.rangeSel)
    (h : legalInput s.params i = true) : ∃ t, cycleWith i s = .next t := by
  rcases cycleWith_cases i s with ⟨-, hc⟩ | ⟨hrst, hvalid, -, hc⟩ | ⟨-, -, -, hc⟩ | ⟨-, -, -, hc⟩ <;> rw [hc]
  · exact ⟨_, rfl⟩
  · have hev : legalEvent s.params s.rangeSel i.ev = true := by simpa [legalInput, hrst, hvalid, hpin] using h
    exact acceptEvent_completes hev
  · exact ⟨_, rfl⟩
  · exact ⟨_, rfl⟩

/-- Under the contract a step completes, and the contract holds of the samples it leaves. -/
theorem step_completes {s : State} (h : ∀ i ∈ s.inputs, legalInput s.params i = true) :
    ∃ t, step s = .next t ∧ ∀ i ∈ t.inputs, legalInput t.params i = true := by
  cases hin : s.inputs with
  | nil => exact ⟨s, step_of_no_input hin, h⟩
  | cons i rest =>
    rw [hin, List.forall_mem_cons] at h
    obtain ⟨hi, hrest⟩ := h
    obtain ⟨t, ht⟩ := cycleWith_completes (s := loadPins i rest s) rfl hi
    obtain ⟨hparams, hinputs⟩ := cycleWith_keeps ht
    refine ⟨t, (step_of_input hin).trans ht, ?_⟩
    rw [hparams, hinputs]
    exact hrest

/-- Settles O18, by induction on the number of steps. -/
theorem legalInputsNeverRefused : Obligations.LegalInputsNeverRefused := by
  intro n
  induction n with
  | zero => exact fun s _ => ⟨s, rfl⟩
  | succ n ih =>
    intro s h
    obtain ⟨u, hstep, hu⟩ := step_completes h
    rw [runSteps_succ, hstep]
    exact ih u hu

end Sys2Proof.Machine

/-! # The Frame Accumulator (40_accumulator.md): one BITS event, and the BITS events of a frame -/

namespace Sys2Proof.Machine

/-! ## The fold on numbers, and in closed form (R104, R108) -/

theorem toNat_foldBit (a : Acc) (b : Bool) : (foldBit a b).toNat = ((a.toNat ||| b.toNat) <<< 1) % 2 ^ 17 := by
  cases b <;> simp [foldBit]

theorem toNat_foldBits (a : Acc) (s : List Bool) :
    (foldBits a s).toNat = s.foldr (fun b n => ((n ||| b.toNat) <<< 1) % 2 ^ 17) a.toNat := by
  induction s with
  | nil => rfl
  | cons b s ih => rw [foldBits_cons, toNat_foldBit, ih, List.foldr_cons]

/-- The last step of a fold is a shift, and an empty one leaves the even number it started from (R104). -/
theorem foldr_shift_even {n : Nat} (h : n % 2 = 0) (s : List Bool) :
    s.foldr (fun b n => ((n ||| b.toNat) <<< 1) % 2 ^ 17) n % 2 = 0 := by
  cases s with
  | nil => exact h
  | cons b s => rw [List.foldr_cons, Nat.shiftLeft_eq]; omega

@[simp] theorem length_bitSeq (len : Len) (vec : Vec) : (bitSeq len vec).length = len.toNat := by simp [bitSeq]

/-- The closed form of R108: the accumulator shifted, and below it `C`, the number that the direction's bits spell. -/
theorem foldBits_bitSeq (a : Acc) (len : Len) (vec : Vec) : foldBits a (bitSeq len vec) =
    BitVec.ofNat 17 ((a.toNat <<< len.toNat) ||| ((vec.toNat % 2 ^ len.toNat) <<< 1)) := by
  refine BitVec.eq_of_getLsbD_eq fun k hk => ?_
  rw [foldBits_getLsbD _ _ hk, bitSeq_getD, length_bitSeq, BitVec.getLsbD_ofNat]
  simp only [Nat.testBit_or, Nat.testBit_shiftLeft, Nat.testBit_mod_two_pow, hk, decide_true, Bool.true_and,
    BitVec.getLsbD, ge_iff_le]
  exact Bool.or_comm _ _

/-- Bits 16:1 of an accumulator whose bit 0 is clear take in the direction's bits from the right (R108). -/
theorem correctedRaw_foldBits {a : Acc} (h : a.getLsbD 0 = false) (len : Len) (vec : Vec) :
    (correctedRaw (foldBits a (bitSeq len vec))).toNat =
      (((correctedRaw a).toNat <<< len.toNat) ||| (vec.toNat % 2 ^ len.toNat)) % 2 ^ 16 := by
  rw [← BitVec.toNat_ofNat]
  refine congrArg BitVec.toNat (BitVec.eq_of_getLsbD_eq fun k hk => ?_)
  have hacc : (decide (len.toNat ≤ 1 + k) && a.getLsbD (1 + k - len.toNat)) =
      (decide (len.toNat ≤ k) && (correctedRaw a).getLsbD (k - len.toNat)) := by
    rw [correctedRaw, BitVec.getLsbD_extractLsb']
    rcases Nat.lt_trichotomy len.toNat (k + 1) with hlt | heq | hgt
    · have hcell : 1 + k - len.toNat = 1 + (k - len.toNat) := by omega
      have hin : k - len.toNat < 16 := by omega
      simp [hcell, hin, show len.toNat ≤ 1 + k by omega, show len.toNat ≤ k by omega]
    · rw [show 1 + k - len.toNat = 0 by omega, h]
      simp [heq]
    · simp [show ¬ len.toNat ≤ 1 + k by omega, show ¬ len.toNat ≤ k by omega]
  rw [correctedRaw, BitVec.getLsbD_extractLsb', foldBits_getLsbD _ _ (by omega), bitSeq_getD, length_bitSeq, hacc,
    BitVec.getLsbD_ofNat]
  simp only [Nat.testBit_or, Nat.testBit_shiftLeft, Nat.testBit_mod_two_pow, hk, decide_true, Bool.true_and,
    BitVec.getLsbD, ge_iff_le, Nat.add_sub_cancel_left, Nat.le_add_right]
  exact Bool.or_comm _ _

/-! ## One BITS event, register by register (R101 to R105) -/

section registers
variable (ev : EvtBody) (s : State)

/-- The fold over an empty sequence changes nothing, so the presence of rx bits need not be asked (R104). -/
theorem accumulate_accRx : (accumulate ev s).frame.accRx = foldBits s.frame.accRx (rxSeq ev) := by
  rw [accumulate_frame, accumulateFrame_eq]
  rcases Nat.eq_zero_or_pos ev.rxLen.toNat with h | h <;> simp [presence, rxSeq, bitSeq, h]

/-- The fold over an empty sequence changes nothing, so the presence of tx bits need not be asked (R104). -/
theorem accumulate_accTx : (accumulate ev s).frame.accTx = foldBits s.frame.accTx (txSeq ev) := by
  rw [accumulate_frame, accumulateFrame_eq]
  rcases Nat.eq_zero_or_pos ev.txLen.toNat with h | h <;> simp [presence, txSeq, bitSeq, h]

theorem accumulate_frameStartTs : (accumulate ev s).frame.frameStartTs =
    if s.frame.frameStartValid then s.frame.frameStartTs else ev.startTs :=
  congrArg FrameState.frameStartTs (accumulateFrame_eq ..)

theorem accumulate_frameEndTs : (accumulate ev s).frame.frameEndTs = ev.endTs :=
  congrArg FrameState.frameEndTs (accumulateFrame_eq ..)

theorem accumulate_rxPresent : (accumulate ev s).frame.rxPresent = decide (0 < ev.rxLen.toNat) :=
  congrArg FrameState.rxPresent (accumulateFrame_eq ..)

theorem accumulate_txPresent : (accumulate ev s).frame.txPresent = decide (0 < ev.txLen.toNat) :=
  congrArg FrameState.txPresent (accumulateFrame_eq ..)

end registers

/-- A BITS event that completes has legal lengths and is accumulated (R76, R100). -/
theorem exec_bits_eq_next {pad : BitVec 3} {ev : EvtBody} {s t : State} (h : exec (.bits pad ev) s = .next t) :
    ev.lengthsLegal s.params = true ∧ t = accumulate ev s := by
  by_cases hlen : ev.lengthsLegal s.params = true
  · rw [exec_bits_of_legal pad hlen] at h
    exact ⟨hlen, (Host.Outcome.next.inj h).symm⟩
  · rw [exec_bits_of_long pad hlen] at h
    cases h

/-! ## The BITS events of a frame -/

/-- The events of a list accumulated one after the other. -/
def accumulateAll (evs : List EvtBody) (s : State) : State := evs.foldl (fun s ev => accumulate ev s) s

@[simp] theorem accumulateAll_nil (s : State) : accumulateAll [] s = s := rfl

@[simp] theorem accumulateAll_cons (ev : EvtBody) (evs : List EvtBody) (s : State) :
    accumulateAll (ev :: evs) s = accumulateAll evs (accumulate ev s) := rfl

theorem accumulateAll_concat (evs : List EvtBody) (last : EvtBody) (s : State) :
    accumulateAll (evs ++ [last]) s = accumulate last (accumulateAll evs s) := List.foldl_concat ..

/-- Events of legal lengths complete, one accumulated after the other. -/
theorem execAll_bitsEvents {evs : List EvtBody} {s : State} (h : ∀ ev ∈ evs, ev.lengthsLegal s.params = true) :
    execAll (bitsEvents evs) s = .next (accumulateAll evs s) := by
  induction evs generalizing s with
  | nil => rfl
  | cons ev evs ih =>
    rw [List.forall_mem_cons] at h
    obtain ⟨hev, hevs⟩ := h
    calc execAll (bitsEvents (ev :: evs)) s
        = andThen (exec (.bits 0 ev) s) (execAll (bitsEvents evs)) := rfl
      _ = .next (accumulateAll evs (accumulate ev s)) := by
          rw [exec_bits_of_legal 0 hev, andThen_next, ih (s := accumulate ev s) hevs]

theorem accumulateAll_accRx (evs : List EvtBody) (s : State) :
    (accumulateAll evs s).frame.accRx = evs.foldl (fun a ev => foldBits a (rxSeq ev)) s.frame.accRx :=
  (List.foldl_hom (fun s : State => s.frame.accRx) fun s ev => (accumulate_accRx ev s).symm).symm

theorem accumulateAll_accTx (evs : List EvtBody) (s : State) :
    (accumulateAll evs s).frame.accTx = evs.foldl (fun a ev => foldBits a (txSeq ev)) s.frame.accTx :=
  (List.foldl_hom (fun s : State => s.frame.accTx) fun s ev => (accumulate_accTx ev s).symm).symm

/-- Once a frame is open its BITS events keep it open and keep its start (R102). -/
theorem accumulateAll_of_open {evs : List EvtBody} {s : State} (h : s.frame.frameStartValid = true) :
    (accumulateAll evs s).frame.frameStartValid = true ∧
      (accumulateAll evs s).frame.frameStartTs = s.frame.frameStartTs := by
  induction evs generalizing s with
  | nil => exact ⟨h, rfl⟩
  | cons ev evs ih =>
    obtain ⟨hopen, hstart⟩ := ih (accumulate_opens ev s)
    rw [accumulateAll_cons]
    exact ⟨hopen, by rw [hstart, accumulate_frameStartTs, if_pos h]⟩

/-- One direction over a frame: where bits 16:1 stand at the low 16 bits of `v`, its events leave the low 16 bits of
their contributions concatenated after `v` (R108). -/
theorem correctedRaw_foldl_foldBits (len : EvtBody → Len) (vec : EvtBody → Vec) (evs : List EvtBody) {a : Acc}
    {v : Nat} (hlow : a.getLsbD 0 = false) (hv : (correctedRaw a).toNat = v % 2 ^ 16) :
    (correctedRaw (evs.foldl (fun a ev => foldBits a (bitSeq (len ev) (vec ev))) a)).toNat =
      evs.foldl (fun v ev => v * 2 ^ (len ev).toNat + (vec ev).toNat % 2 ^ (len ev).toNat) v % 2 ^ 16 := by
  induction evs generalizing a v with
  | nil => exact hv
  | cons ev evs ih =>
    refine ih (foldBits_low hlow _) ?_
    have hlt : (vec ev).toNat % 2 ^ (len ev).toNat < 2 ^ (len ev).toNat := Nat.mod_lt _ (Nat.two_pow_pos _)
    rw [correctedRaw_foldBits hlow, hv, ← Nat.shiftLeft_add_eq_or_of_lt hlt, Nat.shiftLeft_eq, Nat.add_mod,
      Nat.mod_mul_mod, ← Nat.add_mod]

/-! ## Settled: the statements about the accumulator -/

/-- Settles O21: the FrameState of R101 to R105 with each fold in closed form. -/
theorem bitsCompletes : Obligations.BitsCompletes := by
  intro pad ev s hlen rn tn rev width
  have hrx : rxSeq ev = bitSeq ev.rxLen ev.rxVec := rfl
  have htx : txSeq ev = bitSeq ev.txLen ev.txVec := rfl
  have hdraws : s.draws + widthDraws ev = if rev ∧ (0 < rn ∨ 0 < tn) then s.draws + 1 else s.draws := by
    simp only [widthDraws, spanReversed, presence, Bool.and_eq_true, Bool.or_eq_true, decide_eq_true_iff, rev, rn, tn]
    split <;> rfl
  have hwidth (n : Nat) : cellWidth s.params ev n s.draws = width n := by
    simp only [cellWidth, spanReversed, decide_eq_true_iff, width, rev]
  rw [exec_bits_of_legal pad hlen, accumulate, accumulateFrame_eq, hdraws]
  simp only [presence, decide_eq_true_iff, hwidth, hrx, htx, foldBits_bitSeq, Bool.or_assoc, Bool.decide_or, rn, tn]

/-- Settles O23. -/
theorem accumulationFold : Obligations.AccumulationFold := by
  intro pad ev s hlen
  refine ⟨_, exec_bits_of_legal pad hlen, ?_, ?_, fun a bs ha k => foldr_shift_even ha (bs.drop k)⟩
  · rw [accumulate_accRx, toNat_foldBits]
  · rw [accumulate_accTx, toNat_foldBits]

/-- Settles O24: one event by the bits of the fold, and a frame by induction on its events. -/
theorem foldClosedForm : Obligations.FoldClosedForm := by
  refine ⟨fun a len vec => ⟨?_, fun hlow => ⟨foldBits_low hlow _, correctedRaw_foldBits hlow len vec⟩⟩, ?_⟩
  · rw [foldBits_bitSeq, BitVec.toNat_ofNat]
  · intro evs s hlen hrx htx
    refine ⟨_, execAll_bitsEvents hlen, ?_, ?_⟩
    · rw [accumulateAll_accRx, hrx]
      exact correctedRaw_foldl_foldBits EvtBody.rxLen EvtBody.rxVec evs rfl rfl
    · rw [accumulateAll_accTx, htx]
      exact correctedRaw_foldl_foldBits EvtBody.txLen EvtBody.txVec evs rfl rfl

/-- Settles O25: both flags are written by every event, whatever they held. -/
theorem flagsReflectLastEvent : Obligations.FlagsReflectLastEvent := by
  intro evs last s hevs hlast
  have hall : ∀ ev ∈ evs ++ [last], ev.lengthsLegal s.params = true :=
    List.forall_mem_append.mpr ⟨hevs, List.forall_mem_singleton.mpr hlast⟩
  refine ⟨_, execAll_bitsEvents hall, ?_, ?_⟩
  · rw [accumulateAll_concat, accumulate_rxPresent]
  · rw [accumulateAll_concat, accumulate_txPresent]

/-- Settles O26: the first event opens the frame, and the list ends in an event that writes the end. -/
theorem frameSpansItsEvents : Obligations.FrameSpansItsEvents := by
  intro first evs s hlen
  obtain ⟨hopen, hstart⟩ := accumulateAll_of_open (evs := evs) (accumulate_opens first s)
  refine ⟨_, execAll_bitsEvents hlen, hopen, hstart.trans (accumulate_frameStartTs first s), ?_⟩
  obtain ⟨init, last, hlast⟩ := (List.eq_nil_or_concat' (first :: evs)).resolve_left (List.cons_ne_nil _ _)
  rw [hlast, accumulateAll_concat, accumulate_frameEndTs, List.getLast?_concat, Option.map_some]

/-- Settles O27. -/
theorem bitWidthOfLastDirection : Obligations.BitWidthOfLastDirection := by
  intro pad ev s hlen hspan
  have hwidth (n : Nat) : cellWidth s.params ev n s.draws = (ev.endTs - ev.startTs) / n := by
    simp [cellWidth, spanReversed, Nat.not_lt.mpr hspan]
  refine ⟨_, exec_bits_of_legal pad hlen, ?_⟩
  rw [accumulate_frame, accumulateFrame_eq]
  refine ⟨fun htx => ?_, fun htx hrx => ?_, fun htx hrx => ?_⟩
  · simp [presence, htx, hwidth]
  · simp [presence, htx, hrx, hwidth]
  · simp [presence, htx, hrx]

/-- Settles O30. -/
theorem sixteenBitsRoundTrip : Obligations.SixteenBitsRoundTrip := by
  intro pad ev s hlen hrl htl hrx htx
  refine ⟨_, exec_bits_of_legal pad hlen, ?_, ?_⟩
  · rw [accumulate_accRx, hrx, rxSeq, hrl]
    exact (correctedRaw_foldBits_zero 16 ev.rxVec).trans (Nat.mod_mod _ _)
  · rw [accumulate_accTx, htx, txSeq, htl]
    exact (correctedRaw_foldBits_zero 16 ev.txVec).trans (Nat.mod_mod _ _)

/-- Settles O41: neither a BITS event nor a no-op writes the output buffer. -/
theorem onlyRisingEdgeEmits : Obligations.OnlyRisingEdgeEmits := by
  intro w s t h hne
  rcases acceptEvent_cases h with ⟨-, -, rfl⟩ | ⟨hw, -⟩ | ⟨-, rfl⟩
  · exact absurd (accumulate_outBuf _ s) hne
  · exact hw
  · exact absurd rfl hne

/-- Settles O28: the sampled range is no argument of the accumulation. -/
theorem bitsNeverEmits : Obligations.BitsNeverEmits := by
  intro pad ev s t h
  obtain ⟨hlen, rfl⟩ := exec_bits_eq_next h
  refine ⟨accumulate_outBuf ev s, accumulate_opens ev s, fun hopen => ?_, fun r => ?_⟩
  · rw [accumulate_frameStartTs, if_pos hopen]
  · exact exec_bits_of_legal (s := { s with rangeSel := r }) pad hlen

end Sys2Proof.Machine

/-! # Chip select and the finalize sequence (41_cs_edge_finalizer.md): what a rising edge hands over and leaves -/

namespace Sys2Proof.Machine

/-! ## The chip-select classes (R130 to R136) -/

theorem exec_csRise (ev : EvtBody) (s : State) : exec (.csRise ev) s = finalize s := rfl

/-- Settles O38: the low four bits are the header, and the step of a class reads no body. -/
theorem csChangeReadsHeaderOnly : Obligations.CsChangeReadsHeaderOnly := by
  intro w w' s hw hhdr
  have hw' : w' % 2 = 1 := by omega
  have hsame : evtHdr w = evtHdr w' := by
    rw [evtHdr_eq, evtHdr_eq]
    exact BitVec.eq_of_toNat_eq hhdr
  rw [acceptEvent_csChange s hw, acceptEvent_csChange s hw', hsame, exec_csClass, exec_csClass]

/-- Settles O32: of the classes that carry levels only `CS_RISE` carries the two that fire. -/
theorem nonFiringIsNoOp : Obligations.NonFiringIsNoOp := by
  intro i old new s hlevels hfire
  cases i with
  | csRise ev =>
    cases hlevels
    exact absurd ⟨rfl, rfl⟩ hfire
  | csFall ev | csStayLow ev | csStayHigh ev | csFirst new ev => rfl
  | _ => cases hlevels

/-! ## The value handed to a decoder (R138) -/

theorem correctedRaw_toNat (a : Acc) : (correctedRaw a).toNat = a.toNat / 2 % 2 ^ 16 := by
  simp [correctedRaw, BitVec.extractLsb'_toNat, Nat.shiftRight_eq_div_pow]

/-- A word placed above bit 0 is handed over as it is. -/
theorem correctedRaw_append (raw : Raw) (b : BitVec 1) : correctedRaw (raw ++ b) = raw := by
  refine BitVec.eq_of_getLsbD_eq fun k hk => ?_
  rw [correctedRaw, BitVec.getLsbD_extractLsb', BitVec.getLsbD_append, if_neg (by omega), Nat.add_sub_cancel_left]
  simp [hk]

/-! ## An unrecognized register address (R142, R193) -/

section unrecognized
variable {raw : Raw} (h : (ctlReg raw).toNat < 3 ∨ 7 < (ctlReg raw).toNat) (s : State)
include h

theorem controlRecords_unrecognized : controlRecords s raw = [] := by
  rw [controlRecords, if_neg (by omega), if_neg (by omega)]

theorem controlDraws_unrecognized : controlDraws s raw = 0 := by
  rw [controlDraws, if_neg (by omega)]

/-- The decode of an unrecognized address changes nothing (R193). -/
theorem controlDecode_unrecognized : controlDecode raw s = .next s := by
  rw [controlDecode_eq, controlRecords_unrecognized h, controlDraws_unrecognized h, List.append_nil, Nat.add_zero]

end unrecognized

/-- Settles O40: neither a record nor a draw comes from the control word. -/
theorem unrecognizedWordKeepsVoltage : Obligations.UnrecognizedWordKeepsVoltage := by
  intro ev s rm hrm hrx htx hreg
  rw [exec_csRise, finalize_eq hrm, if_pos hrx, if_pos htx, if_pos htx, controlRecords_unrecognized hreg,
    controlDraws_unrecognized hreg, List.append_nil, Nat.add_zero]

/-! ## A frame of few tx bits (R144) -/

/-- The pad of a BITS event is not read, over a list of events (R74). -/
theorem execAll_bits_pads (evs : List (BitVec 3 × EvtBody)) :
    execAll (evs.map fun e => .bits e.1 e.2) = execAll (bitsEvents (evs.map Prod.snd)) := by
  induction evs with
  | nil => rfl
  | cons e evs ih => exact funext fun s => congrArg (andThen (exec (.bits 0 e.2) s)) ih

/-- Contributions of given lengths, concatenated after a number of `k` bits, spell a number of all those bits. -/
theorem foldl_concat_lt {α : Type} (len value : α → Nat) (evs : List α) {v k : Nat} (hv : v < 2 ^ k) :
    evs.foldl (fun v ev => v * 2 ^ len ev + value ev % 2 ^ len ev) v < 2 ^ (k + (evs.map len).sum) := by
  induction evs generalizing v k with
  | nil => exact hv
  | cons ev evs ih =>
    have hvalue : value ev % 2 ^ len ev < 2 ^ len ev := Nat.mod_lt _ (Nat.two_pow_pos _)
    have hnext : v * 2 ^ len ev + value ev % 2 ^ len ev < 2 ^ (k + len ev) :=
      calc v * 2 ^ len ev + value ev % 2 ^ len ev
          < (v + 1) * 2 ^ len ev := by rw [Nat.add_mul, Nat.one_mul]; omega
        _ ≤ 2 ^ k * 2 ^ len ev := Nat.mul_le_mul_right _ hv
        _ = 2 ^ (k + len ev) := (Nat.pow_add ..).symm
    rw [List.foldl_cons, List.map_cons, List.sum_cons, ← Nat.add_assoc]
    exact ih hnext

/-- A number of at most 9 bits has register address 0 (R78, R144). -/
theorem ctlReg_of_lt {raw : Raw} (h : raw.toNat < 2 ^ 9) : ctlReg raw = 0 := by
  refine BitVec.eq_of_toNat_eq ?_
  rw [ctlReg_toNat, show raw.toNat / 512 = 0 from Nat.div_eq_of_lt h]
  rfl

/-- From a cleared accumulator, fewer than 10 tx bits are handed over as the number they spell, and it is below the
register-address field (R104, R144). -/
theorem correctedRaw_accTx_short {evs : List EvtBody} {s : State} (hacc : s.frame.accTx = 0)
    (hshort : (evs.map fun ev => ev.txLen.toNat).sum < 10) :
    (correctedRaw (accumulateAll evs s).frame.accTx).toNat =
        evs.foldl (fun v ev => v * 2 ^ ev.txLen.toNat + ev.txVec.toNat % 2 ^ ev.txLen.toNat) 0 ∧
      (correctedRaw (accumulateAll evs s).frame.accTx).toNat < 2 ^ 9 := by
  have hlt : evs.foldl (fun v ev => v * 2 ^ ev.txLen.toNat + ev.txVec.toNat % 2 ^ ev.txLen.toNat) 0 < 2 ^ 9 :=
    (foldl_concat_lt (fun ev => ev.txLen.toNat) (fun ev => ev.txVec.toNat) evs (k := 0) Nat.one_pos).trans_le
      (Nat.pow_le_pow_right Nat.two_pos (by omega))
  have hraw := correctedRaw_foldl_foldBits EvtBody.txLen EvtBody.txVec evs (a := 0) (v := 0) rfl rfl
  rw [Nat.mod_eq_of_lt (hlt.trans (by decide))] at hraw
  rw [accumulateAll_accTx, hacc]
  exact ⟨hraw, hraw.trans_lt hlt⟩

/-- Settles O31: the number handed over has register address 0, which is not recognized. -/
theorem shortFrameUnrecognized : Obligations.ShortFrameUnrecognized := by
  intro evs s hlen hshort hacc
  have hlegal : ∀ ev ∈ evs.map Prod.snd, ev.lengthsLegal s.params = true := List.forall_mem_map.mpr hlen
  obtain ⟨hraw, hlt⟩ := correctedRaw_accTx_short (evs := evs.map Prod.snd) hacc (by rwa [List.map_map])
  have hreg := ctlReg_of_lt hlt
  refine ⟨accumulateAll (evs.map Prod.snd) s, ?_, ?_, hreg, controlDecode_unrecognized (.inl ?_)⟩
  · rw [execAll_bits_pads, execAll_bitsEvents hlegal]
  · rw [hraw, List.foldl_map]
  · rw [hreg]
    decide

/-! ## The finalize sequence, with exact spans and without (R137 to R143, R181) -/

/-- Settles O34. -/
theorem risingEdgeCompletes : Obligations.RisingEdgeCompletes := by
  intro ev s rm hrm hspan
  rw [exec_csRise, finalize_exact hrm hspan, correctedRaw_toNat, correctedRaw_toNat]
  rfl

/-- `s` with a frame open at 0 and bit-cells of width 0, where every span is exact. -/
def withZeroSpans (s : State) : State :=
  { s with frame := { s.frame with frameStartValid := true, frameStartTs := 0, bitWidthTs := 0 } }

theorem spanExact_withZeroSpans (s : State) : spanExact (withZeroSpans s).params (frameStart (withZeroSpans s))
    (withZeroSpans s).frame.bitWidthTs = true :=
  isTs_iff.mpr (Nat.two_pow_pos _)

/-- Of a control record only the timestamps depend on the state. -/
theorem content_controlRecord (s : State) (a b : Nat) (kind : AnnKind) (aux : BitVec 2) (value : BitVec 16)
    (text : String) : content (controlRecord s a b kind aux value text) = (.control, kind, aux, value, text) := rfl

/-- Of a control decode's records only the timestamps depend on the state (R181). -/
theorem content_controlRecords_state (s t : State) (raw : Raw) :
    (controlRecords s raw).map content = (controlRecords t raw).map content := by
  simp only [controlRecords]
  split_ifs
  · simp only [chselRecords, List.map, content_controlRecord]
  · simp only [rangeRecords, List.map_cons, List.map_map, content_controlRecord]
    rfl
  · rfl

/-- The number, kinds, values and texts of a control decode's records are those of the exact case (R181). -/
theorem content_controlRecords (s : State) (raw : Raw) :
    (controlRecords s raw).map content = (controlOutput 0 0 raw.toNat).map content := by
  rw [content_controlRecords_state s (withZeroSpans s), controlRecords_exact (spanExact_withZeroSpans s)]
  rfl

/-- Settles O35: the records are the control decode's, whatever timestamps they carry. -/
theorem risingEdgeCompletesInexactSpans : Obligations.RisingEdgeCompletesInexactSpans := by
  intro ev s rm hrm htx _
  refine ⟨_, controlRecords s (correctedRaw s.frame.accTx), (exec_csRise ev s).trans (finalize_eq hrm),
    rfl, rfl, rfl, rfl, ?_, ?_⟩
  · rw [if_pos htx, voltageRecord_eq, correctedRaw_toNat]
  · rw [content_controlRecords, correctedRaw_toNat]

/-! ## After a finalize (R141) -/

theorem finalize_params {s t : State} (h : finalize s = .next t) : t.params = s.params := by
  rcases finalize_cases s with ⟨-, hr⟩ | ⟨rs, k, -, hn⟩
  · rw [hr] at h; cases h
  · rw [hn] at h; cases h; rfl

/-- Settles O39: a finalize leaves the frame start unset, so the next BITS event writes it. -/
theorem emptyFrameThenFreshStart : Obligations.EmptyFrameThenFreshStart := by
  refine ⟨fun ev s rm hrm hrx htx => finalize_empty hrm hrx htx, fun rise ev pad s t hrise hlen => ?_⟩
  have hclosed : t.frame.frameStartValid = false := by rw [finalize_frame hrise, clearFrame_frameStartValid]
  have hlegal : ev.lengthsLegal t.params = true := by rw [finalize_params hrise, hlen]
  refine ⟨_, exec_bits_of_legal pad hlegal, accumulate_opens ev t, ?_⟩
  rw [accumulate_frameStartTs, hclosed]
  rfl

/-! ## A control word placed for the next step (R137, R138, log 10) -/

/-- A row of 16 bits is placed as the control word it is (log 12). -/
theorem withFetchWord_controlWord (s : State) (raw : Raw) :
    s.withFetchWord 16 raw.toNat = placeControlWord raw s := by
  have hword : tableWord 16 raw.toNat = .ctlw raw := by simp [tableWord, ctlwTableBits]
  rw [State.withFetchWord, hword, placeWord]

/-- The record that stands for a rising edge is one, in a block with any parameters. -/
theorem decode_riseWord (p q : Config.Params) :
    decode q (.evt (riseWord p)) = .ok (.csRise (evtBody q (riseWord p))) :=
  decode_of_csHdr (evtHdr_packEvt p _ _)

theorem rangeMillivolts_legalRange (r : RangeSel) : ∃ rm, rangeMillivolts (legalRange r) = some rm :=
  Option.isSome_iff_exists.mp ((by decide : ∀ r, (rangeMillivolts (legalRange r)).isSome = true) r)

/-- Settles O20: the offered record is accepted as a rising edge, which hands over the word placed (O11). -/
theorem placedControlWordRuns : Obligations.PlacedControlWordRuns := by
  intro s raw
  obtain ⟨rm, hrm⟩ := rangeMillivolts_legalRange s.rangeSel
  have hstep : step (placeControlWord raw s) = acceptEvent (riseWord s.params)
      (loadPins (offer (legalRange s.rangeSel) (riseWord s.params)) s.inputs (placeControlWord raw s)) :=
    step_of_accepted rfl rfl rfl rfl
  have hword : (placeControlWord raw s).frame.accTx.extractLsb' 1 16 = raw := correctedRaw_append raw 0#1
  rw [withFetchWord_controlWord, hstep, acceptEvent_of_ok (decode_riseWord _ _)]
  refine (risingEdgeRunsControlWord _ _ rm hrm rfl).trans ?_
  rw [loadPins_frame, hword]
  rfl

end Sys2Proof.Machine

/-! # The voltage of a frame and its text (42_voltage_decoder.md) -/

namespace Sys2Proof.Machine

/-! ## Rounding and range (R162, R165) -/

/-- Settles O44: twice a product plus 32767 is odd and 65534 is even, so the division leaves a remainder. -/
theorem voltageIsNearest : Obligations.VoltageIsNearest := by
  intro raw rm
  have hmv : millivolts raw rm = (2 * (raw.toNat * rm) + 32767) / 65534 := by rw [millivolts, Nat.mul_assoc]
  refine ⟨rfl, ?_, ?_⟩ <;> rw [hmv, Nat.mul_assoc 2 raw.toNat rm] <;> omega

/-- Settles O45: 20000 lies below `2 ^ 16`, so the field does not wrap. -/
theorem voltageBounds : Obligations.VoltageBounds := by
  refine ⟨fun raw r rm hrm => ?_, by decide⟩
  have hmv : millivolts raw rm ≤ 20000 := millivolts_le (rangeMillivolts_le hrm) raw
  exact ⟨hmv, (BitVec.toNat_ofNat _ 16).trans (Nat.mod_eq_of_lt (hmv.trans_lt (by decide)))⟩

/-! ## The text (R163) -/

theorem decDigit_eq_digitChar {n : Nat} (h : n < 10) : decDigit n = Nat.digitChar n :=
  (by decide : ∀ n < 10, decDigit n = Nat.digitChar n) n h

theorem toList_dec (n : Nat) : (dec n).toList = Nat.toDigits 10 n := String.toList_ofList

theorem toList_pad3 (n : Nat) : (pad3 n).toList =
    [Nat.digitChar (n / 100 % 10), Nat.digitChar (n / 10 % 10), Nat.digitChar (n % 10)] := by
  have hdigit (k : Nat) : decDigit (k % 10) = Nat.digitChar (k % 10) :=
    decDigit_eq_digitChar (Nat.mod_lt k (by decide))
  rw [pad3, String.toList_ofList, hdigit, hdigit, hdigit]

theorem toList_voltText (mv : Nat) : (voltText mv).toList =
    Nat.toDigits 10 (mv / 1000) ++ '.' :: (pad3 (mv % 1000)).toList ++ ['V'] := by
  simp [voltText, toList_dec]

/-- The number that the digits of a text spell, whatever else stands between them. -/
def readDigits (text : List Char) : Nat := Nat.ofDigitChars 10 (text.filter Char.isDigit) 0

theorem ofDigitChars_pad3 {n : Nat} (h : n < 1000) (init : Nat) :
    Nat.ofDigitChars 10 (pad3 n).toList init = 1000 * init + n := by
  have hlt (k : Nat) : k % 10 < 10 := Nat.mod_lt k (by decide)
  simp only [toList_pad3, Nat.ofDigitChars_cons_digitChar_of_lt_ten (hlt _), Nat.ofDigitChars_nil]
  omega

/-- The digits of a voltage's text, with the point left out, spell the millivolts (R163). -/
theorem readDigits_voltText (mv : Nat) : readDigits (voltText mv).toList = mv := by
  have hint : (Nat.toDigits 10 (mv / 1000)).filter Char.isDigit = Nat.toDigits 10 (mv / 1000) :=
    List.filter_eq_self.mpr fun _ hc => Nat.isDigit_of_mem_toDigits (by decide) (by decide) hc
  have hfrac : (pad3 (mv % 1000)).toList.filter Char.isDigit = (pad3 (mv % 1000)).toList := by
    simp [toList_pad3, Nat.isDigit_digitChar, Nat.mod_lt]
  have hall : (voltText mv).toList.filter Char.isDigit =
      Nat.toDigits 10 (mv / 1000) ++ (pad3 (mv % 1000)).toList := by
    rw [toList_voltText, List.filter_append, List.filter_append, List.filter_cons_of_neg (by decide), hint, hfrac]
    exact List.append_nil _
  rw [readDigits, hall, Nat.ofDigitChars_append, Nat.ofDigitChars_ten_toDigits,
    ofDigitChars_pad3 (Nat.mod_lt mv (by decide)), Nat.div_add_mod]

/-- Settles O46: the digits are those of `pad3`, and reading them back makes the text injective. -/
theorem voltageText : Obligations.VoltageText := by
  refine ⟨fun mv _ => ?_, fun m n _ _ h => ?_⟩
  · refine ⟨mv % 1000 / 100 % 10, mv % 1000 / 10 % 10, mv % 1000 % 10, by omega, by omega, by omega, by omega, ?_⟩
    rw [toList_voltText, toList_pad3, List.append_assoc]
    rfl
  · rw [← readDigits_voltText m, h, readDigits_voltText]

end Sys2Proof.Machine

/-! # The control decoder (43_control_decoder.md): the records of a control word, their spans and their content -/

namespace Sys2Proof.Machine

/-! ## The instructions by row (R187 to R193) -/

/-- Settles O53. -/
theorem quadrantDisplayTable : Obligations.QuadrantDisplayTable := ⟨rfl, rfl, rfl, rfl⟩

/-- Settles O50: each of the five meanings answers its state. -/
theorem unrecognizedAddressSilent : Obligations.UnrecognizedAddressSilent :=
  fun _ _ _ _ _ _ _ _ => ⟨rfl, rfl, rfl, rfl, rfl⟩

/-- With exact spans the records of a control decode are emitted without a draw. -/
theorem emitControl_exact {s : State} (h : spanExact s.params (frameStart s) s.frame.bitWidthTs = true)
    (rs : List Annotation) : emitControl rs s = emit rs s := by
  rw [emitControl, spanDraws_exact h]
  rfl

/-- Settles O48: the four forms run one branch, each with its own label, and `DISPLAY` is the table written out. -/
theorem rangeSelectRecords : Obligations.RangeSelectRecords := by
  intro p15 p8 q s h fs w display out
  have htext : ∀ r : BitVec 2, rangeDisplay r = display.getD r.toNat "" := by decide
  have hbranch (k : BitVec 2) : emitControl (rangeRecords s k q) s =
      { s with outBuf := s.outBuf ++ out k.toNat (rangeLabel k) } := by
    rw [emitControl_exact h, rangeRecords_exact h, htext, htext, htext, htext]
    rfl
  exact ⟨congrArg Host.Outcome.next (hbranch 0), congrArg Host.Outcome.next (hbranch 1),
    congrArg Host.Outcome.next (hbranch 2), congrArg Host.Outcome.next (hbranch 3)⟩

/-! ## Spans that are not exact (R181) -/

/-- Settles O49: only the timestamps depend on the free values, and one draw is taken for all of them. -/
theorem inexactSpansKeepContent : Obligations.InexactSpansKeepContent := by
  intro raw s hspan h3 h7
  have hdraws : controlDraws s raw = 1 := by simp [controlDraws, spanDraws, hspan, h3, h7]
  refine ⟨controlRecords s raw, ?_, content_controlRecords s raw⟩
  rw [exec_decodeCtlw, controlDecode_eq, hdraws]

/-! ## The spans of one control decode (R195) -/

/-- Each record of a control decode spans whole bit-cells, from one to the same or a later one (R181). -/
theorem cells_of_mem_controlOutput {fs w raw : Nat} {r : Annotation} (h : r ∈ controlOutput fs w raw) :
    ∃ a b kind aux value text, a ≤ b ∧ r = exactRecord fs w a b kind aux value text := by
  simp only [controlOutput] at h
  split_ifs at h <;> simp only [List.mem_cons, List.not_mem_nil, or_false] at h
  · rcases h with h | h | h <;> exact ⟨_, _, _, _, _, _, by decide, h⟩
  · rcases h with h | h | h | h | h <;> exact ⟨_, _, _, _, _, _, by decide, h⟩

/-- Each record of a control decode ends where the next one starts. -/
theorem isChain_controlOutput (fs w raw : Nat) :
    List.IsChain (fun a b : Annotation => a.endTs = b.startTs) (controlOutput fs w raw) := by
  simp only [controlOutput]
  split_ifs <;> simp [exactRecord]

/-- The records of a recognized address reach from the frame start to the end of its sixteenth cell. -/
theorem controlOutput_ends (fs w : Nat) {raw : Nat} (h3 : 3 ≤ raw / 512 % 64) (h7 : raw / 512 % 64 ≤ 7) :
    ∃ first mid last, controlOutput fs w raw = first :: mid ++ [last] ∧ first.startTs = fs ∧
      last.endTs = fs + 16 * w := by
  simp only [controlOutput]
  split_ifs with hch hrange
  · exact ⟨_, [_], _, rfl, by simp [exactRecord], by simp [exactRecord, Nat.mul_comm]⟩
  · exact ⟨_, [_, _, _], _, rfl, by simp [exactRecord], by simp [exactRecord, Nat.mul_comm]⟩
  · omega

/-- Settles O51: the spans are runs of bit-cells, whose bounds R181 gives. -/
theorem controlSpansAdjacent : Obligations.ControlSpansAdjacent := by
  intro raw s hspan h3 h7
  rw [ctlReg_toNat] at h3 h7
  obtain ⟨first, mid, last, hout, hfirst, hlast⟩ :=
    controlOutput_ends (frameStart s) s.frame.bitWidthTs h3 h7
  have hcells (r) (hr : r ∈ first :: mid ++ [last]) := cells_of_mem_controlOutput (hout ▸ hr)
  refine ⟨first, mid, last, ?_, hout ▸ isChain_controlOutput _ _ _, fun r hr => ?_, hfirst, hlast,
    fun hw r hr => ?_⟩
  · rw [controlDecode_eq, controlRecords_exact hspan, controlDraws_exact hspan, hout]
    rfl
  · obtain ⟨a, b, _, _, _, _, hab, rfl⟩ := hcells r hr
    exact Nat.add_le_add_left (Nat.mul_le_mul_left _ hab) _
  · obtain ⟨a, b, _, _, _, _, -, rfl⟩ := hcells r hr
    simp only [exactRecord, hw, Nat.zero_mul, Nat.add_zero, and_self]

/-! ## What the output of a control decode depends on (R196) -/

/-- The fields of the control word that the recognized addresses read lie in the payload (R79). -/
theorem ctlChb_eq_payload (raw : Raw) : ctlChb raw = (ctlPayload raw).extractLsb' 4 4 :=
  (BitVec.extractLsb'_extractLsb'_of_le (by decide)).symm

theorem ctlCha_eq_payload (raw : Raw) : ctlCha raw = (ctlPayload raw).extractLsb' 0 4 :=
  (BitVec.extractLsb'_extractLsb'_of_le (by decide)).symm

theorem ctlRng_eq_payload (raw : Raw) (i : Nat) : ctlRng raw i = (ctlPayload raw).extractLsb' (6 - 2 * i) 2 := by
  refine (BitVec.extractLsb'_extractLsb'_of_le ?_).symm
  omega

/-- The records depend on the word by its register address and its payload alone: the pads are not read. -/
theorem controlRecords_word {raw raw' : Raw} (s : State) (hreg : ctlReg raw = ctlReg raw')
    (hpayload : ctlPayload raw = ctlPayload raw') : controlRecords s raw = controlRecords s raw' := by
  simp only [controlRecords, ctlQuads, ctlChb_eq_payload, ctlCha_eq_payload, ctlRng_eq_payload, hreg, hpayload]

/-- The spans of `s` and `s'` are cut from the same start and width, and from the same free values where they are
not exact. -/
structure SameSpans (s s' : State) : Prop where
  params : s.params = s'.params
  start : frameStart s = frameStart s'
  width : s.frame.bitWidthTs = s'.frame.bitWidthTs
  draws : spanExact s.params (frameStart s) s.frame.bitWidthTs = false → s.draws = s'.draws

section sameSpans
variable {s s' : State} (h : SameSpans s s')
include h

theorem spanExact_congr : spanExact s.params (frameStart s) s.frame.bitWidthTs =
    spanExact s'.params (frameStart s') s'.frame.bitWidthTs := by
  rw [h.params, h.start, h.width]

theorem spanDraws_congr : spanDraws s = spanDraws s' := by
  rw [spanDraws, spanDraws, spanExact_congr h]

/-- An exact span reads no free value, and one that is not exact reads the same. -/
theorem controlRecord_congr : controlRecord s = controlRecord s' := by
  funext a b kind aux value text
  cases hspan : spanExact s.params (frameStart s) s.frame.bitWidthTs with
  | true =>
    have hspan' := (spanExact_congr h).symm.trans hspan
    rw [controlRecord_exact hspan, controlRecord_exact hspan', h.start, h.width]
  | false => simp only [controlRecord, h.params, h.start, h.width, h.draws hspan]

theorem controlRecords_congr (raw : Raw) : controlRecords s raw = controlRecords s' raw := by
  have hrecord := controlRecord_congr h
  have hquad : quadRecord s = quadRecord s' := by
    funext q i
    simp only [quadRecord, hrecord]
  simp only [controlRecords, chselRecords, rangeRecords, hrecord, hquad]

end sameSpans

/-- Settles O52: the records and the draws are equal, and a control decode writes nothing else. -/
theorem controlOutputDependsOn : Obligations.ControlOutputDependsOn := by
  intro raw raw' s s' hreg hpayload hparams hstart hwidth hdraws
  have hspans : SameSpans s s' := ⟨hparams, hstart, hwidth, hdraws⟩
  have hreg : ctlReg raw = ctlReg raw' := hreg
  have hrecords : controlRecords s raw = controlRecords s' raw' :=
    (controlRecords_word s hreg hpayload).trans (controlRecords_congr hspans raw')
  have hcount : controlDraws s raw = controlDraws s' raw' := by
    simp only [controlDraws, hreg, spanDraws_congr hspans]
  refine ⟨controlRecords s raw, controlDraws s raw, controlDecode_eq raw s, ?_⟩
  rw [controlDecode_eq, hrecords, hcount]

end Sys2Proof.Machine

/-! # Cycles between events (60_exceptions.md) -/

namespace Sys2Proof.Machine

/-- With `rst` low, no event offered and the buffer empty, a cycle neither resets, accepts nor hands over a record:
it holds the state (R231). -/
theorem cycleWith_of_idle {i : PortIn} {s : State} (hrst : i.rst = false) (hvalid : i.evValid = false)
    (hbuf : s.outBuf = []) : cycleWith i s = .next s := by
  rcases cycleWith_cases i s with ⟨hreset, -⟩ | ⟨-, haccept, -, -⟩ | ⟨-, -, htake, -⟩ | ⟨-, -, -, hhold⟩
  · exact absurd (hrst.symm.trans hreset) Bool.false_ne_true
  · exact absurd (hvalid.symm.trans haccept) Bool.false_ne_true
  · exact absurd hbuf htake
  · exact hhold

/-- Settles O15: a step with no sample holds the state, and one with an idle sample loads the pins and holds the
rest. -/
theorem idleHoldsState : Obligations.IdleHoldsState := by
  intro s
  refine ⟨step_of_no_input, fun i rest hin hrst hvalid hbuf => ?_⟩
  rw [step_of_input hin]
  exact cycleWith_of_idle (s := loadPins i rest s) hrst hvalid hbuf

end Sys2Proof.Machine

/-! # Reset, the two handshakes and the boot order (70_reset_and_hazards.md) -/

namespace Sys2Proof.Machine

/-! ## The outputs of a cycle (R254, R255) -/

theorem evReady_iff {s : State} {i : PortIn} : evReady s i = true ↔ i.rst = false ∧ s.outBuf = [] := by
  simp [evReady]

theorem annValid_iff {s : State} {i : PortIn} : annValid s i = true ↔ i.rst = false ∧ s.outBuf ≠ [] := by
  simp [annValid]

theorem accepts_iff {s : State} {i : PortIn} :
    accepts s i = true ↔ i.evValid = true ∧ i.rst = false ∧ s.outBuf = [] := by
  rw [accepts, Bool.and_eq_true, evReady_iff]

theorem outBuf_of_accepts {s : State} {i : PortIn} (h : accepts s i = true) : s.outBuf = [] := by
  obtain ⟨-, -, hbuf⟩ := accepts_iff.mp h
  exact hbuf

/-- No event is accepted over a buffered record (R255). -/
theorem accepts_of_buffered {s : State} (i : PortIn) (h : s.outBuf ≠ []) : accepts s i = false :=
  Bool.eq_false_iff.mpr fun hacc => h (outBuf_of_accepts hacc)

/-- The port shows the head of the buffer (R254). -/
theorem annPort_cons {s : State} {r : Annotation} {rs : List Annotation} (h : s.outBuf = r :: rs) :
    annPort s = some (packAnn s.params r) := by
  rw [annPort, h]
  rfl

/-! ## The steps that accept no event -/

/-- A step whose sample holds `rst` high is the reset (R250). -/
theorem step_of_reset {s : State} {i : PortIn} {rest : List PortIn} (hin : s.inputs = i :: rest)
    (hrst : i.rst = true) : step s = .next (applyReset (loadPins i rest s)) := by
  rw [step_of_input hin, cycleWith, if_pos hrst]

/-- While a record is buffered, the sink alone decides what a step without reset does: the record leaves or stays
(R254, R255). -/
theorem step_of_buffered {s : State} {i : PortIn} {rest : List PortIn} {r : Annotation} {rs : List Annotation}
    (hin : s.inputs = i :: rest) (hrst : i.rst = false) (hbuf : s.outBuf = r :: rs) :
    step s = .next (if i.annReady
      then { s with rangeSel := i.rangeSel, inputs := rest, outBuf := rs, delivered := s.delivered ++ [r] }
      else { s with rangeSel := i.rangeSel, inputs := rest }) := by
  have hne : (loadPins i rest s).outBuf ≠ [] := by rw [loadPins_outBuf, hbuf]; exact List.cons_ne_nil r rs
  have hvalid : annValid (loadPins i rest s) i = true := annValid_iff.mpr ⟨hrst, hne⟩
  have htakes : takes (loadPins i rest s) i = i.annReady := by rw [takes, hvalid, Bool.true_and]
  rw [step_of_input hin, cycleWith, if_neg (by simp [hrst]), accepts_of_buffered i hne, htakes,
    takeRecord_cons (s := loadPins i rest s) hbuf]
  cases i.annReady <;> rfl

/-! ## Settled: one cycle -/

/-- Settles O12. -/
theorem resetCycleWins : Obligations.ResetCycleWins := by
  intro s i rest hin hrst
  refine ⟨?_, ?_, _, _, step_of_reset hin hrst, rfl, rfl, rfl⟩
  · simp [evReady, hrst]
  · simp [annValid, hrst]

/-- Settles O13: an event is accepted over an empty buffer, so one that emits nothing leaves it empty. -/
theorem handshakeOutputs : Obligations.HandshakeOutputs := by
  intro s i
  refine ⟨evReady_iff, annValid_iff, outBuf_of_accepts, fun t j hacc _ hsame hrst => ?_⟩
  have ht : t.outBuf = [] := hsame.trans (outBuf_of_accepts hacc)
  exact ⟨ht, evReady_iff.mpr ⟨hrst, ht⟩⟩

/-- Settles O14: a sink that is not ready leaves the buffer, and so its head at the port. -/
theorem bufferedRecordBlocksEvents : Obligations.BufferedRecordBlocksEvents := by
  intro s i rest r rs hin hrst hbuf
  have hne : s.outBuf ≠ [] := by rw [hbuf]; exact List.cons_ne_nil r rs
  have hstep := step_of_buffered hin hrst hbuf
  refine ⟨annValid_iff.mpr ⟨hrst, hne⟩, annPort_cons hbuf, accepts_of_buffered i hne, hstep,
    fun t hready ht => ?_⟩
  rw [hstep, hready] at ht
  cases ht
  exact annPort_cons hbuf

/-! ## Runs -/

theorem runSteps_one (s : State) : runSteps 1 s = step s := by
  rw [runSteps_succ]
  cases step s <;> rfl

/-- A run in two parts. -/
theorem runSteps_add (m n : Nat) (s : State) : runSteps (m + n) s = andThen (runSteps m s) (runSteps n) := by
  induction m generalizing s with
  | zero => rw [Nat.zero_add, runSteps_zero, andThen_next]
  | succ m ih =>
    rw [Nat.succ_add, runSteps_succ, runSteps_succ]
    cases step s with
    | next t => exact ih t
    | fault r => rfl
    | refused r => rfl

theorem drain_of_empty {s : State} (h : s.outBuf = []) : drain s = s := by
  rw [drain, h, List.append_nil, ← h]

/-- A ready sink drains the buffer in as many cycles as it holds records, whatever is offered meanwhile; only the
level of `RANGE_SEL` that the last of them samples is left open (R254, R255). -/
theorem runSteps_drain {waiting rest : List PortIn} {s : State} (hin : s.inputs = waiting ++ rest)
    (hlen : waiting.length = s.outBuf.length) (hready : ∀ j ∈ waiting, j.rst = false ∧ j.annReady = true) :
    ∃ range, runSteps s.outBuf.length s = .next { drain s with rangeSel := range, inputs := rest } := by
  induction waiting generalizing s with
  | nil =>
    have hbuf : s.outBuf = [] := List.length_eq_zero_iff.mp hlen.symm
    obtain rfl : s.inputs = rest := hin
    refine ⟨s.rangeSel, ?_⟩
    rw [hbuf, List.length_nil, runSteps_zero, drain_of_empty hbuf]
  | cons j waiting ih =>
    rw [List.forall_mem_cons] at hready
    obtain ⟨⟨hrst, hj⟩, hready⟩ := hready
    cases hbuf : s.outBuf with
    | nil => rw [hbuf] at hlen; cases hlen
    | cons r rs =>
      have hstep := step_of_buffered hin hrst hbuf
      rw [if_pos hj] at hstep
      rw [hbuf] at hlen
      rw [List.length_cons, runSteps_succ, hstep, andThen_next]
      obtain ⟨range, hrun⟩ := ih (s := { s with
        rangeSel := j.rangeSel, inputs := waiting ++ rest, outBuf := rs, delivered := s.delivered ++ [r] })
        rfl (Nat.succ.inj hlen) hready
      exact ⟨range, hrun.trans (by simp [drain, hbuf])⟩

/-- Samples with `rst` high, at least one, leave the reset values and touch no record the sink has taken (R250). -/
theorem runSteps_resets {i : PortIn} {resets rest : List PortIn} {s : State} (hin : s.inputs = i :: resets ++ rest)
    (hi : i.rst = true) (hrst : ∀ j ∈ resets, j.rst = true) :
    ∃ t v, runSteps (i :: resets).length s = .next t ∧ t.inputs = rest ∧ t.outBuf = [] ∧
      t.delivered = s.delivered ∧ t.frame = FrameState.reset v := by
  induction resets generalizing i s with
  | nil => exact ⟨_, _, (runSteps_one s).trans (step_of_reset hin hi), rfl, rfl, rfl, rfl⟩
  | cons j resets ih =>
    rw [List.forall_mem_cons] at hrst
    obtain ⟨hj, hrst⟩ := hrst
    rw [List.length_cons, runSteps_succ, step_of_reset hin hi, andThen_next]
    exact ih (s := applyReset (loadPins i (j :: resets ++ rest) s)) rfl hj hrst

/-! ## Settled: runs of cycles -/

/-- Settles O16: the sink drains the buffer, and the cycle after that runs the event (O9). -/
theorem eventAcceptedAfterDrain : Obligations.EventAcceptedAfterDrain := by
  intro s waiting rest i ins hin hlen hready hrst hvalid hdec
  obtain ⟨range, hrun⟩ := runSteps_drain hin hlen hready
  rw [runSteps_add, hrun, andThen_next, runSteps_one]
  exact stepRunsDecodedEvent { drain s with rangeSel := range, inputs := i :: rest } i rest ins rfl hrst hvalid rfl hdec

/-- Settles O19: every sample of the boot order keeps the upstream layer's contract, so that no step is refused
(O18). -/
theorem bootFromAnyState : Obligations.BootFromAnyState := by
  intro s resets rest hin hboot
  obtain ⟨hne, hresets, hrest⟩ := hboot
  have hhigh : ∀ i ∈ resets, i.rst = true := fun i hi => (hresets i hi).1
  refine ⟨?_, fun n => legalInputsNeverRefused n s fun i hi => ?_⟩
  · obtain ⟨i, resets, rfl⟩ := List.exists_cons_of_ne_nil hne
    obtain ⟨hfirst, hothers⟩ := List.forall_mem_cons.mp hhigh
    exact runSteps_resets hin hfirst hothers
  · rcases List.mem_append.mp (hin ▸ hi) with hi | hi
    · simp [legalInput, hhigh i hi]
    · exact (hrest i hi).2

end Sys2Proof.Machine
